-- ==== Sys2Proof/Word.lean ====
section
/-! DEFINITION. The widths the block fixes (`00_scope.md` R8) and their plain types. -/

namespace Sys2Proof

/-- A data word or a target memory address: 32 bits (R8). Bit 0 is the least significant (R10). -/
abbrev Word := BitVec 32

/-- One byte of the host's buffer or of target memory. -/
abbrev Byte := BitVec 8

/-- The 4-bit register address a transaction names; two of its bits are transmitted (R8, R106). -/
abbrev Addr4 := BitVec 4

/-- The 8-bit address of an access-port register (R47, R106). -/
abbrev Reg8 := BitVec 8

/-- An access-port index, 0 to 255 (R8, R33). -/
abbrev ApIndex := BitVec 8

end Sys2Proof
end

