-- ==== Sys2Proof/Machine/Bits.lean ====
section
/-! DEFINITION. Bit order (`00_scope.md` R10, R11; `20_memory.md` R65): a value as the list of its bits in wire order. -/

namespace Sys2Proof.Machine

/-- The low `n` bits of `v`, least significant first: what sending `v` with count `n` puts on the wire (R11). -/
def lsbBits {w : Nat} (v : BitVec w) (n : Nat) : List Bool :=
  (List.range n).map v.getLsbD

/-- All bits of `v`, most significant first: the one MSB-first framing, used by the selection alert (R65, R114). -/
def msbBits {w : Nat} (v : BitVec w) : List Bool :=
  (lsbBits v w).reverse

/-- The natural number whose bits, least significant first, are the list (R10). -/
def bitsToNat : List Bool → Nat
  | [] => 0
  | b :: bs => b.toNat + 2 * bitsToNat bs

/-- The value accumulated from bits read least significant first (R11). -/
def ofLsbBits (w : Nat) (bs : List Bool) : BitVec w :=
  BitVec.ofNat w (bitsToNat bs)

/-- `bitReverse32(w)[i] = w[31 - i]` (R146). -/
def bitReverse32 (v : Word) : Word :=
  ofLsbBits 32 (msbBits v)

/-- Byte lane k of a word, bits 8k+7 to 8k (R66, R118). -/
def byteLane (w : Word) (k : Nat) : Byte :=
  (w >>> (8 * k)).setWidth 8

/-- `w` with byte lane k replaced by `b` (R245's `WORD[8k+7 : 8k] <- b`). -/
def setLane (w : Word) (k : Nat) (b : Byte) : Word :=
  (w &&& ~~~((0xFF#32) <<< (8 * k))) ||| ((b.setWidth 32) <<< (8 * k))

/-- `alignDown(a, n)` is `a & ~(n - 1)` for n a power of two (R10). -/
def alignDown (a : Word) (n : Nat) : Word :=
  a &&& ~~~(BitVec.ofNat 32 (n - 1))

end Sys2Proof.Machine
end

