-- ==== Sys2Proof/Config.lean ====
section
/-! DEFINITION. What an implementation fixes: the LinkConfig of `10_state.md` R28 and the parameters of `00_scope.md` R7, as
one plain structure that `linkInit` loads; and the free values, constants without a body. -/

namespace Sys2Proof

/-- LinkConfig (R28): pin assignments, opaque identifiers, and the per-bit delay count. -/
structure LinkConfig where
  pinSwclk : Nat
  pinSwdio : Nat
  hasNreset : Bool
  pinNreset : Nat
  delayCount : Nat
deriving DecidableEq, Repr

/-- R7's parameters of the Bit-Level Link and its fixed sequences. -/
structure WireParams where
  /-- `NRESET_ACTIVE_LEVEL`: the pin level that asserts target reset. -/
  nresetActiveLevel : Bool
  lineResetHighCycles : Nat
  lineResetLowCycles : Nat
  jtagToSwdPattern : BitVec 16
  wakeHighCycles : Nat
  wakeLowCycles : Nat
  alertWord0 : Word
  alertWord1 : Word
  alertWord2 : Word
  alertWord3 : Word
  activationCode : BitVec 8
  idleBit : Bool
  dummyData : Word
deriving DecidableEq, Repr

/-- R7's parameters of the Transaction Engine and the Debug-Port registers (R43, R45). -/
structure EngineParams where
  maxAttempts : Nat
  ackOk : BitVec 3
  ackWait : BitVec 3
  ackFault : BitVec 3
  dpIdcode : Addr4
  dpAbort : Addr4
  dpCtrlStat : Addr4
  dpSelect : Addr4
  dpRdbuff : Addr4
  abortClearPattern : Word
deriving DecidableEq, Repr

/-- R7's parameters of the Power-Up Sequencer and of the memory-access port (R44, R47). -/
structure PowerParams where
  pwrupReq : Word
  pwrupAckMask : Word
  powerupPollMax : Nat
  memApIndex : ApIndex
  apCsw : Reg8
  apTar : Reg8
  apDrw : Reg8
  apIdr : Reg8
  cswWordValue : Word
deriving DecidableEq, Repr

/-- R7's parameters of the Flash Programming Engine (R48, R71). -/
structure FlashParams where
  flashBase : Nat
  flashSize : Nat
  pageSize : Nat
  nvmcReady : Word
  nvmcConfig : Word
  nvmcErasePage : Word
  nvmcEraseAll : Word
  nvmcReadyMask : Word
  nvmcModeMask : Word
  modeReadOnly : Word
  modeWrite : Word
  modeErase : Word
  erasedWord : Word
  readyConsecutive : Nat
  readyPollIntervalMs : Nat
  readyTimeoutMs : Nat
  erasePageTimeoutMs : Nat
  eraseVerifyOffsets : List Word
  writeWordTimeoutMs : Nat
  writePollIntervalWords : Nat
  progressIntervalBytes : Nat
  eraseAllTimeoutMs : Nat
deriving DecidableEq, Repr

/-- R7's parameters of the Mass-Erase Engine and of the control access port (R50, R51). -/
structure CtrlApParams where
  scanCount : Nat
  idrValue : Word
  idrMask : Word
  fallbackIndex : ApIndex
  ctrlapReset : Reg8
  ctrlapEraseAll : Reg8
  ctrlapEraseAllStatus : Reg8
  ctrlapApprotectStatus : Reg8
  statusIdle : Word
  unlockedMask : Word
  assertReset : Bool
  massEraseTimeoutMs : Nat
  massErasePollIntervalMs : Nat
  resetAssert : Word
  resetRelease : Word
  eraseAllStart : Word
  uicrBase : Word
  uicrApprotect : Word
  verifyAddrs : List Word
deriving DecidableEq, Repr

/-- What `linkInit` loads: the LinkConfig and, with it, the parameter set (R340). -/
structure Params where
  link : LinkConfig
  wire : WireParams
  engine : EngineParams
  power : PowerParams
  flash : FlashParams
  ctrlAp : CtrlApParams
deriving DecidableEq, Repr

/-- The level of the data line at the n-th sample that nobody drives: a draw under no law (R23, R25, D7, U3). Log 3. -/
opaque Config.undrivenLevel : Nat → Bool

/-- The n-th unspecified register value of a run (R53, R124, U5). Logs 4, 5 and 28. -/
opaque Config.freeWord : Nat → BitVec 32

end Sys2Proof
end

