-- ==== Sys2Proof/Machine/Defaults.lean ====
section
/-! DEFINITION. The configuration the machine holds at reset: R7's values where the table gives one (source or spec default),
and the spec's test set `TP0` (`95_test_vectors.md`) for the OPEN parameters. DESIGN CHOICE, unsafe: log 7. PRESUMED, unsafe:
log 8. No statement rests on these values: `linkInit` loads any valid configuration. -/

namespace Sys2Proof.Machine

/-- `TP0` with distinct pins (V70.1). -/
def defaultLink : LinkConfig where
  pinSwclk := 0
  pinSwdio := 1
  hasNreset := true
  pinNreset := 2
  delayCount := 0

/-- R7, link rows. -/
def defaultWire : WireParams where
  nresetActiveLevel := false
  lineResetHighCycles := 60
  lineResetLowCycles := 1
  jtagToSwdPattern := 0xE79E#16
  wakeHighCycles := 8
  wakeLowCycles := 4
  alertWord0 := 0x49CF9046#32
  alertWord1 := 0xA9B4A161#32
  alertWord2 := 0x97F5BBC7#32
  alertWord3 := 0x45703D98#32
  activationCode := 0x1A#8
  idleBit := false
  dummyData := 0#32

/-- R7, engine rows. -/
def defaultEngine : EngineParams where
  maxAttempts := 10
  ackOk := 0b001#3
  ackWait := 0b010#3
  ackFault := 0b100#3
  dpIdcode := 0x0#4
  dpAbort := 0x0#4
  dpCtrlStat := 0x4#4
  dpSelect := 0x8#4
  dpRdbuff := 0xC#4
  abortClearPattern := 0x0000001E#32

/-- R7, power-up and memory-access-port rows; `POWERUP_POLL_MAX` from `TP0`. -/
def defaultPower : PowerParams where
  pwrupReq := 0x50000000#32
  pwrupAckMask := 0xA0000000#32
  powerupPollMax := 8
  memApIndex := 0#8
  apCsw := 0x00#8
  apTar := 0x04#8
  apDrw := 0x0C#8
  apIdr := 0xFC#8
  cswWordValue := 0x23000002#32

/-- R7, flash rows; sizes of time and of interval from `TP0`. -/
def defaultFlash : FlashParams where
  flashBase := 0
  flashSize := 0x00080000
  pageSize := 0x1000
  nvmcReady := 0x4001E400#32
  nvmcConfig := 0x4001E504#32
  nvmcErasePage := 0x4001E508#32
  nvmcEraseAll := 0x4001E50C#32
  nvmcReadyMask := 0x00000001#32
  nvmcModeMask := 0x00000003#32
  modeReadOnly := 0#32
  modeWrite := 1#32
  modeErase := 2#32
  erasedWord := 0xFFFFFFFF#32
  readyConsecutive := 2
  readyPollIntervalMs := 1
  readyTimeoutMs := 10
  erasePageTimeoutMs := 400
  eraseVerifyOffsets := [0x000#32, 0x004#32, 0x008#32, 0xFFC#32]
  writeWordTimeoutMs := 10
  writePollIntervalWords := 4
  progressIntervalBytes := 8
  eraseAllTimeoutMs := 1000

/-- R7, mass-erase rows; OPEN ones from `TP0`. -/
def defaultCtrlAp : CtrlApParams where
  scanCount := 4
  idrValue := 0x02880000#32
  idrMask := 0xFFFFFFFF#32
  fallbackIndex := 1#8
  ctrlapReset := 0x00#8
  ctrlapEraseAll := 0x04#8
  ctrlapEraseAllStatus := 0x08#8
  ctrlapApprotectStatus := 0x0C#8
  statusIdle := 0#32
  unlockedMask := 0x00000001#32
  assertReset := true
  massEraseTimeoutMs := 30000
  massErasePollIntervalMs := 100
  resetAssert := 1#32
  resetRelease := 0#32
  eraseAllStart := 1#32
  uicrBase := 0x10001000#32
  uicrApprotect := 0x10001208#32
  verifyAddrs := [0x00000000#32, 0x00001000#32, 0x10001208#32]

/-- The configuration of `State.reset`. -/
def defaultParams : Params where
  link := defaultLink
  wire := defaultWire
  engine := defaultEngine
  power := defaultPower
  flash := defaultFlash
  ctrlAp := defaultCtrlAp

end Sys2Proof.Machine
end

