-- ==== Sys2Proof/Syntax.lean ====
section
/-! DEFINITION. The instructions (one constructor per row of `spec/opcode_table.json`), the command tuple of
`30_encoding.md` R122 and the ways a call reaches the block. -/

namespace Sys2Proof

/-- The target controller's three modes, the operand of `setControllerMode` (R49, R241). -/
inductive NvmcMode where
  | readOnly
  | write
  | erase
deriving DecidableEq, Repr

/-- One constructor per row of the opcode table. The wire rows come first, then the 31 operations in the order of their
command codes (R123). A transferred register address of a wire row is its two sent bits, A3 above A2 (R104). -/
inductive Instr where
  -- SWDREQ: one whole transfer with that request byte (R107, R190); a write request carries its payload
  | reqDpRead0
  | reqDpRead4
  | reqDpRead8
  | reqDpReadC
  | reqDpWrite0 (data : Word)
  | reqDpWrite4 (data : Word)
  | reqDpWrite8 (data : Word)
  | reqDpWriteC (data : Word)
  | reqApRead0
  | reqApRead4
  | reqApRead8
  | reqApReadC
  | reqApWrite0 (data : Word)
  | reqApWrite4 (data : Word)
  | reqApWrite8 (data : Word)
  | reqApWriteC (data : Word)
  -- SWDACK: the acknowledgement phase answered with that code (R108, R109, R192)
  | ackReserved000
  | ackOk
  | ackWait
  | ackReserved011
  | ackFault
  | ackReserved101
  | ackReserved110
  | ackReserved111
  -- FRAME: a whole transfer with the target's bits given (R102)
  | frameReadOk (isAP : Bool) (reg : BitVec 2) (data : Word) (par : Bool)
  | frameWriteOk (isAP : Bool) (reg : BitVec 2) (data : Word)
  | frameNotOk (isAP isRead : Bool) (reg : BitVec 2) (ack : BitVec 3)
  -- SEQ: the fixed sequences (R112 to R114)
  | seqLineReset
  | seqJtagToSwd
  | seqDormantWake
  -- CMD: the operations (R100, R123)
  | linkInit (cfgA cfgD : Word)
  | clockPulse
  | writeBits (value : Word) (count : BitVec 6)
  | readBits (count : BitVec 6)
  | turnaround (toWrite : Bool)
  | lineReset
  | jtagToSwdSequence
  | dormantWakeSequence
  | parity32 (v : Word)
  | connect
  | disconnect
  | isConnected
  | resetTarget
  | rawTransfer (addr : Addr4) (isAP isRead : Bool) (data : Word)
  | dpRead (addr : Addr4)
  | dpWrite (addr : Addr4) (data : Word)
  | apRead (addr : Addr4)
  | apWrite (addr : Addr4) (data : Word)
  | powerUp
  | memApInit
  | readWord (addr : Word)
  | writeWord (addr value : Word)
  | waitControllerReady (timeoutMs : Word)
  | setControllerMode (mode : NvmcMode)
  | erasePage (address : Word)
  | flashWriteWord (address data : Word)
  | writeBuffer (address length : Word)
  | eraseAll
  | updateFirmware (start length : Word) (verify : Bool)
  | findControlAccessPort
  | massErase
deriving DecidableEq, Repr

/-- The command tuple (`CMD_OP`, `CMD_ADDR`, `CMD_DATA`, `CMD_LEN`, `CMD_FLAGS`) of R122. -/
structure Command where
  op : BitVec 8
  addr : Word := 0
  data : Word := 0
  len : Word := 0
  flags : BitVec 8 := 0
deriving DecidableEq, Repr

/-- How a call reaches the block: a tuple at the host command port (R26), the same tuple as a direct call of an operation,
which is how a test bench or a model names an internal operation (R123), or a wire format, its bits in wire order, first
bit sent first (R101). -/
inductive Request where
  | port (c : Command)
  | direct (c : Command)
  | wire (bits : List Bool)
deriving DecidableEq, Repr

/-- Why a request is no instruction. Each is a name the decoder rejects by. -/
inductive DecodeError where
  /-- The command port does not accept this `CMD_OP`: it is not listed by R123 or listed as internal (R119). -/
  | notAccepted (op : BitVec 8)
  /-- A direct call names a code R123 does not list. -/
  | noSuchOperation (op : BitVec 8)
  /-- A bit count above 32 (R141, R142, D11). -/
  | countOutOfRange (count : Word)
  /-- A mode code other than 0, 1, 2: it "cannot be asked for" (R241). -/
  | modeOutOfRange (code : Word)
  /-- Eight bits that are none of the sixteen request bytes (R104, R107). -/
  | badRequestByte (req : BitVec 8)
  /-- Payload bits behind a read request, whose frame has no payload of the block's (R102). -/
  | payloadOnRead (req : BitVec 8)
  /-- 46 or 47 bits that are none of the three frames (R102). -/
  | badFrame
  /-- Bits of no wire format: "Nothing else is ever put on the wire" (R101). -/
  | noSuchFormat (length : Nat)
deriving DecidableEq, Repr

end Sys2Proof
end

