-- ==== Sys2Proof/Machine/State.lean ====
section
/-! DEFINITION. Everything the spec gives the block (`10_state.md`), as plain data, and its value at reset. -/

namespace Sys2Proof.Machine

/-- `DriveState` (R29). -/
inductive DriveState where
  | released
  | driven
deriving DecidableEq, Repr

/-- `ConnectionState` (R30). -/
inductive ConnectionState where
  | disconnected
  | connected
deriving DecidableEq, Repr

/-- What a `rawTransfer` returns as its status (R190, `90_conflicts.md` C4). -/
inductive XferStatus where
  | ok
  | wait
  | fault
  | parity
  | other (ack : BitVec 3)
deriving DecidableEq, Repr

/-- `LAST`: the kind of the last failed attempt (R35). -/
inductive FailKind where
  | wait
  | fault
  | parity
  | other
deriving DecidableEq, Repr

/-- The error codes of R300, in its order (0x01 to 0x0F). -/
inductive ErrCode where
  | eWaitExhausted
  | eFault
  | eParity
  | eProtocol
  | eTimeout
  | eMisaligned
  | eRange
  | eConfig
  | eUnsupported
  | eMode
  | eEraseVerify
  | eWriteVerify
  | eMassEraseVerify
  | eConnect
  | eNoTarget
deriving DecidableEq, Repr

/-- The delays a rule names (R326, R362): a `DELAY` event carries the name, never a number. -/
inductive DelayName where
  | waitRetry
  | powerupPoll
  | readyPoll
  | eraseSettle
  | eraseAllSettle
  | massErasePoll
  | resetAssert
  | resetRelease
deriving DecidableEq, Repr

/-- The four progress labels, coded 0 to 3 on `PROG_LABEL` (R126). -/
inductive ProgLabel where
  | erase
  | write
  | verify
  | massErase
deriving DecidableEq, Repr

/-- The events of `TRACE` (R38). -/
inductive Event where
  /-- One clock pulse during which the block drives the line with `b`. -/
  | w (b : Bool)
  /-- One clock pulse with the line released, before which the block sampled `b`. -/
  | r (b : Bool)
  /-- A turnaround pulse, into drive (`true`) or into release (`false`). -/
  | t (toWrite : Bool)
  /-- The reset pin was set to its asserting (`true`) or releasing (`false`) level. -/
  | nrst (asserted : Bool)
  /-- A delay, by name. -/
  | delay (p : DelayName)
  /-- A progress upcall. -/
  | prog (done total : Word) (label : ProgLabel)
deriving DecidableEq, Repr

/-- Bytes by index, sparse, in one canonical form (`Memory.wf`): the host's data buffer (R64). -/
abbrev Memory := List Host.Cell

/-- The pin latches (R20 to R24). -/
structure Pins where
  swclk : Bool
  swdioOut : Bool
  swdioOe : Bool
  nreset : Bool
deriving DecidableEq, Repr

/-- Session state (R29 to R34). -/
structure Session where
  driveState : DriveState
  connectionState : ConnectionState
  lock : Bool
  idcodeReg : Word
  ctrlApIndex : ApIndex
  busy : Bool
  op : BitVec 8
deriving DecidableEq, Repr

/-- Working registers of the Link and the Transaction Engine (R35). -/
structure LinkRegs where
  shift : Word
  bitcnt : BitVec 6
  req : BitVec 8
  ack : BitVec 3
  rdata : Word
  rpar : Bool
  wdata : Word
  attempt : BitVec 4
  last : FailKind
deriving DecidableEq, Repr

/-- Working registers of the sequencers (R36). -/
structure SeqRegs where
  pollsLeft : Word
  readyRun : BitVec 2
  cur : Word
  idx : Word
  word : Word
  sincePoll : Word
  reported : Word
  firstErr : Option ErrCode
  scan : BitVec 9
deriving DecidableEq, Repr

/-- What the block shows the host: the response port (R26, R124), the buffer port's index and the byte last taken, the
progress port (R27), and the status `rawTransfer` last returned (R190; the model's own field, log 20). -/
structure Ports where
  rspValid : Bool
  rspStatus : BitVec 8
  rspData : Word
  bufIndex : Word
  bufByte : Byte
  progValid : Bool
  progDone : Word
  progTotal : Word
  progLabel : ProgLabel
  xferStatus : XferStatus
deriving DecidableEq, Repr

/-- One call of the host: the request, the buffer it lends (R27, R358), whether it gave a progress callback (R126), and the
configuration it presents (R340). -/
structure HostCall where
  request : Request
  buffer : Memory
  callback : Bool
  config : Params
deriving DecidableEq, Repr

/-- The outside world's side of the pins and ports. `line` holds what the target will drive at the block's next samples of a
released line, `none` where nobody drives; past its end nobody drives (R23, R84; log 2). `stream` holds the host's calls still
to be presented, the next one first (R26, R41; log 13). -/
structure Inputs where
  line : List (Option Bool)
  stream : List HostCall
  buffer : Memory
  callback : Bool
  config : Params
deriving DecidableEq, Repr

/-- The machine's state. `draws` is the model's own field: how many free values the run has drawn (log 3). -/
structure State where
  cfg : Params
  pins : Pins
  session : Session
  linkRegs : LinkRegs
  seqRegs : SeqRegs
  ports : Ports
  inputs : Inputs
  draws : Nat
  trace : List Event
deriving DecidableEq, Repr

/-- Why the machine stops. -/
inductive Fault where
  /-- Raised by `step` when a direct call or a wire request is no listed encoding (R101, R123). Safe: the block has no
  behaviour there, the host must not do it; a bad code at the COMMAND PORT is answered by `E_UNSUPPORTED` instead (R119). -/
  | undecodable (e : DecodeError)
deriving DecidableEq, Repr

/-- Why the model has no transition. -/
inductive Refusal where
  /-- Raised by an arm of `exec` for an instruction without a meaning. Safe. No arm raises it now. -/
  | notModelled (mnemonic : String)
  /-- Raised by `step` for a call presented while `BUSY` = 1: `CMD_READY` = 0, the call is not accepted (R26, U7). Safe: no
  run from reset meets it, since a step leaves `BUSY` = 0. -/
  | callWhileBusy
deriving DecidableEq, Repr

/-- The state a successful `linkInit` of the reset configuration leaves (R53, R340, U6). The registers whose value the spec
does not give, and the block's inputs, hold the values of log 6 (DESIGN CHOICE, unsafe). -/
def State.reset : State where
  cfg := defaultParams
  pins :=
    { swclk := false
      swdioOut := true
      swdioOe := true
      nreset := !defaultParams.wire.nresetActiveLevel }
  session :=
    { driveState := .driven
      connectionState := .disconnected
      lock := false
      idcodeReg := 0#32
      ctrlApIndex := 0#8
      busy := false
      op := 0#8 }
  linkRegs :=
    { shift := 0#32, bitcnt := 0#6, req := 0#8, ack := 0#3, rdata := 0#32, rpar := false, wdata := 0#32,
      attempt := 0#4, last := .wait }
  seqRegs :=
    { pollsLeft := 0#32, readyRun := 0#2, cur := 0#32, idx := 0#32, word := 0#32, sincePoll := 0#32,
      reported := 0#32, firstErr := none, scan := 0#9 }
  ports :=
    { rspValid := false, rspStatus := 0#8, rspData := 0#32, bufIndex := 0#32, bufByte := 0#8, progValid := false,
      progDone := 0#32, progTotal := 0#32, progLabel := .erase, xferStatus := .ok }
  inputs := { line := [], stream := [], buffer := [], callback := false, config := defaultParams }
  draws := 0
  trace := []

end Sys2Proof.Machine
end

