-- ==== Sys2Proof/Machine/Flags.lean ====
section
/-! DEFINITION. Computed bits and codes: parity (`40_bit_link.md` R147, R148), the acknowledgement decoder
(`42_transaction_engine.md` R192) and the result codes (`60_exceptions.md` R300). -/

namespace Sys2Proof.Machine

/-- `PARITY_LUT` = 0x6996: entry n is the exclusive or of the four bits of n (R147). -/
def parityLut (x : BitVec 4) : Bool :=
  (0x6996#16).getLsbD x.toNat

/-- `parity32`: even parity by folding 32 to 16 to 8 to 4 bits and one lookup (R147). -/
def parity32 (v : Word) : Bool :=
  let x16 := (v >>> 16).setWidth 16 ^^^ v.setWidth 16
  let x8 := (x16 >>> 8).setWidth 8 ^^^ x16.setWidth 8
  let x4 := (x8 >>> 4).setWidth 4 ^^^ x8.setWidth 4
  parityLut x4

/-- Request parity: the lookup of the four bits addr[3], addr[2], RnW, APnDP (R105, R148). -/
def requestParity (addr : Addr4) (isAP isRead : Bool) : Bool :=
  parityLut (ofLsbBits 4 [isAP, isRead, addr.getLsbD 2, addr.getLsbD 3])

/-- The acknowledgement decoder (R192): OK, WAIT, FAULT by the configured codes, any other value passed on unmodified. -/
def decodeAck (cfg : Params) (a : BitVec 3) : XferStatus :=
  if a = cfg.engine.ackOk then .ok
  else if a = cfg.engine.ackWait then .wait
  else if a = cfg.engine.ackFault then .fault
  else .other a

/-- The number of a result code on `RSP_STATUS` (R300). -/
def ErrCode.toByte : ErrCode → BitVec 8
  | .eWaitExhausted => 0x01#8
  | .eFault => 0x02#8
  | .eParity => 0x03#8
  | .eProtocol => 0x04#8
  | .eTimeout => 0x05#8
  | .eMisaligned => 0x06#8
  | .eRange => 0x07#8
  | .eConfig => 0x08#8
  | .eUnsupported => 0x09#8
  | .eMode => 0x0A#8
  | .eEraseVerify => 0x0B#8
  | .eWriteVerify => 0x0C#8
  | .eMassEraseVerify => 0x0D#8
  | .eConnect => 0x0E#8
  | .eNoTarget => 0x0F#8

/-- `RSP_STATUS` of a completed operation (R124, R300). -/
def statusOk : BitVec 8 := 0x00#8

/-- The code an exhausted retry loop reports, by the kind of the last failure (R197e, R309). -/
def FailKind.error : FailKind → ErrCode
  | .wait => .eWaitExhausted
  | .fault => .eFault
  | .parity => .eParity
  | .other => .eProtocol

/-- The precondition errors of class (e): the operation was rejected before it touched anything (R305). -/
def isPreconditionStatus (st : BitVec 8) : Bool :=
  st == ErrCode.eMisaligned.toByte || st == ErrCode.eRange.toByte || st == ErrCode.eConfig.toByte
    || st == ErrCode.eUnsupported.toByte

/-- The code of a label on `PROG_LABEL[1:0]` (R126). -/
def ProgLabel.code : ProgLabel → BitVec 2
  | .erase => 0#2
  | .write => 1#2
  | .verify => 2#2
  | .massErase => 3#2

/-- `DriveState` as the bit `SWDIO_OE` it equals (R29). -/
def DriveState.oe : DriveState → Bool
  | .released => false
  | .driven => true

/-- A free register pattern read as one of the four kinds of `LAST` (log 5). -/
def FailKind.ofFree (v : Word) : FailKind :=
  match v.toNat % 4 with
  | 0 => .wait
  | 1 => .fault
  | 2 => .parity
  | _ => .other

/-- A free register pattern read as a content of `FIRST_ERR`: no error or one of the codes (log 5). -/
def ErrCode.ofFree (v : Word) : Option ErrCode :=
  match v.toNat % 16 with
  | 1 => some .eWaitExhausted
  | 2 => some .eFault
  | 3 => some .eParity
  | 4 => some .eProtocol
  | 5 => some .eTimeout
  | 6 => some .eMisaligned
  | 7 => some .eRange
  | 8 => some .eConfig
  | 9 => some .eUnsupported
  | 10 => some .eMode
  | 11 => some .eEraseVerify
  | 12 => some .eWriteVerify
  | 13 => some .eMassEraseVerify
  | 14 => some .eConnect
  | 15 => some .eNoTarget
  | _ => none

end Sys2Proof.Machine
end

