-- ==== Sys2Proof/Machine/Operands.lean ====
section
/-! DEFINITION. Operand assembly: the request byte (`30_encoding.md` R104 to R106), the select word (R117), and the address
and poll arithmetic of the engines (R118, `44_flash_engine.md` R239, `45_mass_erase.md` R281). -/

namespace Sys2Proof.Machine

/-- `REQ = 0x81 | isAP<<1 | isRead<<2 | addr[2]<<3 | addr[3]<<4 | par<<5` (R104): start, APnDP, RnW, A2, A3, parity, stop,
park, from bit 0 up. -/
def requestByte (addr : Addr4) (isAP isRead : Bool) : BitVec 8 :=
  ofLsbBits 8
    [true, isAP, isRead, addr.getLsbD 2, addr.getLsbD 3, requestParity addr isAP isRead, false, true]

/-- The 4-bit address whose sent bits are `reg` (A3 above A2) and whose ignored bits 1:0 are 0 (R106). -/
def regAddr (reg : BitVec 2) : Addr4 :=
  (reg.setWidth 4) <<< 2

/-- The transaction's 4-bit address of an access-port register: `reg8[3:0]` (R106). -/
def regLow (reg8 : Reg8) : Addr4 :=
  reg8.setWidth 4

/-- `selectWord(apIndex, reg8) = (apIndex << 24) | (reg8[7:4] << 4)` (R117). -/
def selectWord (apIndex : ApIndex) (reg8 : Reg8) : Word :=
  ((apIndex.setWidth 32) <<< 24) ||| ((reg8.setWidth 32) &&& 0xF0#32)

/-- The code written to and compared with the mode register (R241). -/
def modeCode (cfg : Params) : NvmcMode → Word
  | .readOnly => cfg.flash.modeReadOnly
  | .write => cfg.flash.modeWrite
  | .erase => cfg.flash.modeErase

/-- A word address is aligned when `addr[1:0]` = 0 (R67). -/
def wordAligned (addr : Word) : Bool :=
  addr.setWidth 2 == 0#2

/-- `polls(t) = max(READY_CONSECUTIVE, t div READY_POLL_INTERVAL_MS + 1)` (R239). -/
def polls (cfg : Params) (t : Nat) : Nat :=
  max cfg.flash.readyConsecutive (t / cfg.flash.readyPollIntervalMs + 1)

/-- `mpolls(t) = max(1, t div MASS_ERASE_POLL_INTERVAL_MS + 1)` (R281). -/
def mpolls (cfg : Params) (t : Nat) : Nat :=
  max 1 (t / cfg.ctrlAp.massErasePollIntervalMs + 1)

/-- The dead identification codes: "no live target responding" (R43, R171). -/
def deadIdcode (v : Word) : Bool :=
  v == 0x00000000#32 || v == 0xFFFFFFFF#32

/-- `erasePage`'s range check against [`FLASH_BASE`, `FLASH_BASE` + `FLASH_SIZE`) (R71, R243). -/
def inFlash (cfg : Params) (a : Word) : Bool :=
  decide (cfg.flash.flashBase ≤ a.toNat) && decide (a.toNat - cfg.flash.flashBase < cfg.flash.flashSize)

/-- `updateFirmware`'s check that a span fits the flash, over natural numbers (R247). -/
def spanInFlash (cfg : Params) (start length : Word) : Bool :=
  decide (cfg.flash.flashBase ≤ start.toNat)
    && decide (start.toNat - cfg.flash.flashBase + length.toNat ≤ cfg.flash.flashSize)

end Sys2Proof.Machine
end

