-- ==== Sys2Proof/Machine/Ops.lean ====
section
/-! DEFINITION. The named operations every meaning is built from: record updates, the host buffer, the wire primitives of the
Bit-Level Link (`40_bit_link.md`), `try`, delays and progress upcalls, and the one way an operation returns to the host, with a
value or with an error (`60_exceptions.md` R316, R318). -/

namespace Sys2Proof.Machine

/-! ### Record updates -/

/-- Update the pin latches. -/
def State.mapPins (f : Pins → Pins) (s : State) : State := { s with pins := f s.pins }

/-- Update the session state. -/
def State.mapSession (f : Session → Session) (s : State) : State := { s with session := f s.session }

/-- Update the working registers of R35. -/
def State.mapLinkRegs (f : LinkRegs → LinkRegs) (s : State) : State := { s with linkRegs := f s.linkRegs }

/-- Update the working registers of R36. -/
def State.mapSeqRegs (f : SeqRegs → SeqRegs) (s : State) : State := { s with seqRegs := f s.seqRegs }

/-- Update what the block shows the host. -/
def State.mapPorts (f : Ports → Ports) (s : State) : State := { s with ports := f s.ports }

/-- Update the outside world's side. -/
def State.mapInputs (f : Inputs → Inputs) (s : State) : State := { s with inputs := f s.inputs }

/-- Load a configuration: `linkInit` alone does (R28). -/
def State.setCfg (p : Params) (s : State) : State := { s with cfg := p }

/-- Replace the trace: `linkInit` alone empties it (R340). -/
def State.setTrace (t : List Event) (s : State) : State := { s with trace := t }

/-- Count one more free value drawn (log 3). -/
def State.drew (s : State) : State := { s with draws := s.draws + 1 }

/-- `Emit(e)`: append an event to `TRACE` (R12, R38). -/
def State.emit (e : Event) (s : State) : State := { s with trace := s.trace ++ [e] }

/-- `CMD_READY` is 1 exactly when `BUSY` = 0 (R26). -/
def State.cmdReady (s : State) : Bool := !s.session.busy

/-- Set `ConnectionState` (R30). -/
def State.setConnection (c : ConnectionState) (s : State) : State :=
  s.mapSession fun x => { x with connectionState := c }

/-- Set `LOCK` (R31, R196). -/
def State.setLock (b : Bool) (s : State) : State :=
  s.mapSession fun x => { x with lock := b }

/-! ### Sparse memory in canonical form -/

/-- What an unlisted index of the host's buffer reads as. DESIGN CHOICE, unsafe: log 11. -/
def Memory.unlisted : Byte := 0x00#8

/-- One byte, with `d` read where nothing is listed. -/
def Memory.readWith (d : Byte) : Memory → Nat → Byte
  | [], _ => d
  | (k, b) :: rest, a => if k = a then b else Memory.readWith d rest a

/-- Write one byte and keep the canonical form: an entry equal to `d` is not listed. -/
def Memory.writeWith (d : Byte) : Memory → Nat → Byte → Memory
  | [], a, b => if b = d then [] else [(a, b)]
  | (k, c) :: rest, a, b =>
    if a < k then (if b = d then (k, c) :: rest else (a, b) :: (k, c) :: rest)
    else if a = k then (if b = d then rest else (a, b) :: rest)
    else (k, c) :: Memory.writeWith d rest a b

/-- The canonical form: addresses strictly rising, each below 2^32, no entry equal to `d`. -/
def Memory.wfWith (d : Byte) : Memory → Bool
  | [] => true
  | (k, b) :: rest =>
    b != d && decide (k < 2 ^ 32) && rest.all (fun c => decide (k < c.1)) && Memory.wfWith d rest

/-- `data[i]` of the host's buffer (R64, R125). -/
def Memory.read (m : Memory) (i : Word) : Byte := Memory.readWith Memory.unlisted m i.toNat

/-- The host's own write of `data[i]`; the block never writes its buffer (R64). -/
def Memory.write (m : Memory) (i : Word) (b : Byte) : Memory := Memory.writeWith Memory.unlisted m i.toNat b

/-- The canonical form of the host's buffer. -/
def Memory.wf (m : Memory) : Bool := Memory.wfWith Memory.unlisted m

/-- The buffer that holds `bs` from index `i` on. -/
def Memory.ofBytesAt : Nat → List Byte → Memory
  | _, [] => []
  | i, b :: bs => Memory.write (Memory.ofBytesAt (i + 1) bs) (BitVec.ofNat 32 i) b

/-- The buffer `[b0, b1, ...]` (R127). -/
def Memory.ofBytes (bs : List Byte) : Memory := Memory.ofBytesAt 0 bs

/-- The block reads `data[i]`: it presents i on `BUF_INDEX` and takes `BUF_BYTE` (R27, R125). -/
def readBuf (i : Nat) (s : State) : Byte × State :=
  let b := Memory.read s.inputs.buffer (BitVec.ofNat 32 i)
  (b, s.mapPorts fun p => { p with bufIndex := BitVec.ofNat 32 i, bufByte := b })

/-! ### Wire primitives -/

/-- `clockPulse`: `SWCLK` high, then low; the pulse contributes one event, chosen by the caller (R140). The two holds of
`DELAY_COUNT` are no event and no rule depends on them. -/
def clockPulse (e : Event) (s : State) : State :=
  let up := s.mapPins fun p => { p with swclk := true }
  let down := up.mapPins fun p => { p with swclk := false }
  down.emit e

/-- `Sample()`: the level of the data line (R12, R23, R25). Driving, the block sees its own output; released, the next bit
the target drives, or a draw where nobody drives. -/
def sample (s : State) : Bool × State :=
  if s.pins.swdioOe then (s.pins.swdioOut, s)
  else
    match s.inputs.line with
    | some b :: rest => (b, s.mapInputs fun x => { x with line := rest })
    | none :: rest => (Config.undrivenLevel s.draws, (s.mapInputs fun x => { x with line := rest }).drew)
    | [] => (Config.undrivenLevel s.draws, s.drew)

/-- `turnaround(toWrite)`: latch high, output enable to the direction wanted, one pulse, `DriveState` (R143). -/
def turnaround (toWrite : Bool) (s : State) : State :=
  let latched := s.mapPins fun p => { p with swdioOut := true }
  let switched := latched.mapPins fun p => { p with swdioOe := toWrite }
  let pulsed := clockPulse (.t toWrite) switched
  pulsed.mapSession fun x => { x with driveState := if toWrite then .driven else .released }

/-- The turnaround `writeBits` makes first when the line is released (R141, R350). -/
def ensureDriven (s : State) : State :=
  if s.session.driveState = .released then turnaround true s else s

/-- The turnaround `readBits` makes first when the line is driven (R142, R350). -/
def ensureReleased (s : State) : State :=
  if s.session.driveState = .driven then turnaround false s else s

/-- Drive each bit and clock once (R141's loop). -/
def sendAll : List Bool → State → State
  | [], s => s
  | b :: bs, s => sendAll bs (clockPulse (.w b) (s.mapPins fun p => { p with swdioOut := b }))

/-- Bits in wire order, after the turnaround that is due (R141, R144). -/
def sendBits (bs : List Bool) (s : State) : State :=
  sendAll bs (ensureDriven s)

/-- `writeBits(value, count)`, least significant bit first (R141). `SHIFT` and `BITCNT` end with nothing left to send
(log 21). -/
def writeBits (value : Word) (count : Nat) (s : State) : State :=
  (sendBits (lsbBits value count) s).mapLinkRegs fun r => { r with shift := value >>> count, bitcnt := 0#6 }

/-- Sample before each pulse, `n` times (R142's loop). -/
def recvAll : Nat → State → List Bool × State
  | 0, s => ([], s)
  | n + 1, s =>
    let first := sample s
    let rest := recvAll n (clockPulse (.r first.1) first.2)
    (first.1 :: rest.1, rest.2)

/-- `readBits(count)`: the value accumulated least significant bit first (R142; log 21). -/
def readBits (count : Nat) (s : State) : Word × State :=
  let got := recvAll count (ensureReleased s)
  let v := ofLsbBits 32 got.1
  (v, got.2.mapLinkRegs fun r => { r with shift := v, bitcnt := 0#6 })

/-- `lineReset`: the high cycles, then the low ones (R112, R144; log 15). -/
def lineReset (s : State) : State :=
  let bits :=
    List.replicate s.cfg.wire.lineResetHighCycles true ++ List.replicate s.cfg.wire.lineResetLowCycles false
  (sendBits bits s).mapLinkRegs fun r => { r with shift := 0#32, bitcnt := 0#6 }

/-- `jtagToSwdSequence`: the 16-bit pattern, then a line reset (R113, R145). -/
def jtagToSwdSequence (s : State) : State :=
  lineReset (writeBits (s.cfg.wire.jtagToSwdPattern.setWidth 32) 16 s)

/-- `dormantWakeSequence`: high cycles, the four alert words most significant bit first, low cycles, the activation code, a
line reset (R114 to R116, R146). DESIGN CHOICE: above 8 of them the opening cycles are still high, as R7 and R114 say, where
R146's `writeBits(0xFF, WAKE_HIGH_CYCLES)` taken to the letter would send low ones (log 15). -/
def dormantWakeSequence (s : State) : State :=
  let w := s.cfg.wire
  let high := sendBits (List.replicate w.wakeHighCycles true) s
  let a0 := writeBits (bitReverse32 w.alertWord0) 32 high
  let a1 := writeBits (bitReverse32 w.alertWord1) 32 a0
  let a2 := writeBits (bitReverse32 w.alertWord2) 32 a1
  let a3 := writeBits (bitReverse32 w.alertWord3) 32 a2
  let low := sendBits (List.replicate w.wakeLowCycles false) a3
  lineReset (writeBits (w.activationCode.setWidth 32) 8 low)

/-! ### Time, progress, results -/

/-- `Delay(p)`: appends `DELAY(p)`, changes nothing else (R362). -/
def delay (p : DelayName) (s : State) : State := s.emit (.delay p)

/-- `Progress(done, total, label)`: the trace entry, and, if the host gave a callback, the three on the progress port (R126;
log 16). -/
def progress (done total : Word) (label : ProgLabel) (s : State) : State :=
  let noted := s.emit (.prog done total label)
  if s.inputs.callback then
    noted.mapPorts fun p =>
      { p with progValid := true, progDone := done, progTotal := total, progLabel := label }
  else noted

/-- What an operation gives back: `Ok(v)` or `Err(code)` (R12), with the state it leaves. -/
abbrev Res (α : Type) := Except ErrCode α × State

/-- `try f`: on `Err(c)` the enclosing operation takes its error exit with c (R12). -/
def tryThen {α β : Type} (r : Res α) (k : α → State → Res β) : Res β :=
  match r with
  | (.ok a, s) => k a s
  | (.error c, s) => (.error c, s)

/-- An unspecified register value, and the state with it counted (log 3). -/
def freeWord (s : State) : Word × State :=
  (Config.freeWord s.draws, s.drew)

/-- The one way an operation ends toward the host (R124, R316 step 4): the code on `RSP_STATUS`, the value of R123's table on
`RSP_DATA`, and `RSP_VALID`. There is no trap entry: nothing is saved and no control goes to a handler (R316). `RSP_DATA` is
unspecified on an error and where R123 names no value: a free value (log 4). -/
def respond (r : Res (Option Word)) : State :=
  match r with
  | (.ok (some v), s) => s.mapPorts fun p => { p with rspValid := true, rspStatus := statusOk, rspData := v }
  | (.ok none, s) =>
    (freeWord s).2.mapPorts fun p => { p with rspValid := true, rspStatus := statusOk, rspData := (freeWord s).1 }
  | (.error c, s) =>
    (freeWord s).2.mapPorts fun p => { p with rspValid := true, rspStatus := c.toByte, rspData := (freeWord s).1 }

/-- An operation without a result value and without an error. -/
def respondDone (s : State) : State := respond (.ok none, s)

/-- An operation that gives a value and has no error. -/
def respondValue (v : Word) (s : State) : State := respond (.ok (some v), s)

/-- An operation that gives `Result<()>`. -/
def respondUnit (r : Res Unit) : State := respond (r.1.map fun _ => none, r.2)

/-- An operation that gives `Result<u32>`. -/
def respondWord (r : Res Word) : State := respond (r.1.map some, r.2)

/-- The working registers of R35 and R36 at free values: between two operations, and after `linkInit`, their values are
unspecified (R35, R36, R53, U5; log 5). -/
def freeWorkingRegs (s : State) : State :=
  let f := fun k => Config.freeWord (s.draws + k)
  let linked := s.mapLinkRegs fun _ =>
    { shift := f 0, bitcnt := (f 1).setWidth 6, req := (f 2).setWidth 8, ack := (f 3).setWidth 3, rdata := f 4,
      rpar := (f 5).getLsbD 0, wdata := f 6, attempt := (f 7).setWidth 4, last := FailKind.ofFree (f 8) }
  let sequenced := linked.mapSeqRegs fun _ =>
    { pollsLeft := f 9, readyRun := (f 10).setWidth 2, cur := f 11, idx := f 12, word := f 13, sincePoll := f 14,
      reported := f 15, firstErr := ErrCode.ofFree (f 16), scan := (f 17).setWidth 9 }
  { sequenced with draws := s.draws + 18 }

/-- `CTRL_AP_INDEX` at a free value: unspecified outside a running `massErase` (R33, R53, U5; log 5). -/
def freeCtrlApIndex (s : State) : State :=
  let f := freeWord s
  f.2.mapSession fun x => { x with ctrlApIndex := f.1.setWidth 8 }

/-- `OP` at a free value: unspecified while `BUSY` = 0 (R34, U5; log 5). -/
def freeOp (s : State) : State :=
  let f := freeWord s
  f.2.mapSession fun x => { x with op := f.1.setWidth 8 }

/-- `IDCODE_REG` at a free value: unspecified after `linkInit` (R53; log 28). -/
def freeIdcode (s : State) : State :=
  let f := freeWord s
  f.2.mapSession fun x => { x with idcodeReg := f.1 }

end Sys2Proof.Machine
end

