-- ==== Sys2Proof/Machine/Transaction.lean ====
section
/-! DEFINITION. The DP/AP Transaction Engine (`42_transaction_engine.md`): one transfer, the retry loop, the four accessors; and
the meanings of the request bytes, acknowledgements and frames (`30_encoding.md` R102 to R110). -/

namespace Sys2Proof.Machine

/-! ### One transfer (R190) -/

/-- What a `rawTransfer` gives back: `status`, `rdata` (meaningful only when the status is OK of a read), and the state. -/
structure Xfer where
  status : XferStatus
  rdata : Word
  st : State

/-- Request framer: `REQ`, sent least significant bit first while driving (R191). -/
def requestPhase (addr : Addr4) (isAP isRead : Bool) (s : State) : State :=
  let req := requestByte addr isAP isRead
  writeBits (req.setWidth 32) 8 (s.mapLinkRegs fun r => { r with req := req })

/-- `ACK <- readBits(3)`, the turnaround into release inside (R192). -/
def ackPhase (s : State) : BitVec 3 × State :=
  let got := readBits 3 s
  let a := got.1.setWidth 3
  (a, got.2.mapLinkRegs fun r => { r with ack := a })

/-- The trailing idle bit (R111). -/
def idleBit (s : State) : State :=
  writeBits (if s.cfg.wire.idleBit then 1#32 else 0#32) 1 s

/-- Read data phase: 32 data bits, the parity bit, the turnaround and the idle bit whether or not the parity matches (R193,
D12). -/
def readDataPhase (s : State) : XferStatus × Word × State :=
  let d := readBits 32 s
  let p := readBits 1 (d.2.mapLinkRegs fun r => { r with rdata := d.1 })
  let rpar := p.1.getLsbD 0
  let tail := idleBit (turnaround true (p.2.mapLinkRegs fun r => { r with rpar := rpar }))
  (if rpar = parity32 d.1 then .ok else .parity, d.1, tail)

/-- Write data phase: turnaround, payload, its parity, the idle bit (R194). DESIGN CHOICE: `WDATA` is loaded here, so a write
that is not acknowledged OK leaves it as it was (log 33). -/
def writeDataPhase (data : Word) (s : State) : State :=
  let payload := writeBits data 32 (turnaround true (s.mapLinkRegs fun r => { r with wdata := data }))
  idleBit (writeBits (if parity32 data then 1#32 else 0#32) 1 payload)

/-- Not-OK tail: the dummy write-direction cycle, the turnaround inside, and the idle bit; no parity bit (R195, D10). -/
def notOkTail (s : State) : State :=
  idleBit (writeBits s.cfg.wire.dummyData 32 s)

/-- What follows the acknowledgement (R190). -/
def dataPhase (isRead : Bool) (data : Word) (status : XferStatus) (s : State) : XferStatus × Word × State :=
  match status with
  | .ok => if isRead then readDataPhase s else (.ok, 0#32, writeDataPhase data s)
  | other => (other, 0#32, notOkTail s)

/-- `rawTransfer(addr, isAP, isRead, data)` (R190), inside the critical section of R196. -/
def rawTransfer (addr : Addr4) (isAP isRead : Bool) (data : Word) (s : State) : Xfer :=
  let requested := requestPhase addr isAP isRead (s.setLock true)
  let acked := ackPhase requested
  let finished := dataPhase isRead data (decodeAck s.cfg acked.1) acked.2
  { status := finished.1
    rdata := finished.2.1
    st := (finished.2.2.setLock false).mapPorts fun p => { p with xferStatus := finished.1 } }

/-! ### The retry loop (R197) -/

/-- The sticky-fault handler: one transfer that writes the clear pattern to the abort register, its result ignored (R202). -/
def clearSticky (s : State) : State :=
  (rawTransfer s.cfg.engine.dpAbort false false s.cfg.engine.abortClearPattern s).st

/-- Record the kind of a failed attempt. -/
def setLast (k : FailKind) (s : State) : State :=
  s.mapLinkRegs fun r => { r with last := k }

/-- The attempts left, `n` of them, `k` made so far (R197; log 9). The recovery action follows every failed attempt (D15), a
reserved acknowledgement has none (D14), and the error is named after the last failure (D16). `ATTEMPT` counts up, as R35, R197
and the vectors have it, where R326 calls it a down-counter (DEDUCED, log 38). -/
def retryLoop (addr : Addr4) (isAP isRead : Bool) (data : Word) : Nat → Nat → State → Res Word
  | 0, _, s => (.error s.linkRegs.last.error, s)
  | n + 1, k, s =>
    let x := rawTransfer addr isAP isRead data s
    let counted := x.st.mapLinkRegs fun r => { r with attempt := BitVec.ofNat 4 (k + 1) }
    match x.status with
    | .ok => (.ok x.rdata, counted)
    | .wait => retryLoop addr isAP isRead data n (k + 1) (delay .waitRetry (setLast .wait counted))
    | .fault => retryLoop addr isAP isRead data n (k + 1) (clearSticky (setLast .fault counted))
    | .parity => retryLoop addr isAP isRead data n (k + 1) (clearSticky (setLast .parity counted))
    | .other _ => retryLoop addr isAP isRead data n (k + 1) (setLast .other counted)

/-- `retry(addr, isAP, isRead, data)` (R197). -/
def retry (addr : Addr4) (isAP isRead : Bool) (data : Word) (s : State) : Res Word :=
  retryLoop addr isAP isRead data s.cfg.engine.maxAttempts 0 (s.mapLinkRegs fun r => { r with attempt := 0#4 })

/-! ### The four accessors (R198 to R201) -/

/-- `dpRead(addr)` (R198). -/
def dpRead (addr : Addr4) (s : State) : Res Word :=
  retry addr false true 0#32 s

/-- `dpWrite(addr, data)` (R199). -/
def dpWrite (addr : Addr4) (data : Word) (s : State) : Res Unit :=
  tryThen (retry addr false false data s) fun _ s1 => (.ok (), s1)

/-- `apWrite(addr, data)` (R200). -/
def apWrite (addr : Addr4) (data : Word) (s : State) : Res Unit :=
  tryThen (retry addr true false data s) fun _ s1 => (.ok (), s1)

/-- `apRead(addr)`: the posted read, whose own data is stale and dropped, then the read-buffer read with a budget of its own
(R201, D17). -/
def apRead (addr : Addr4) (s : State) : Res Word :=
  tryThen (retry addr true true 0#32 s) fun _ s1 => dpRead s1.cfg.engine.dpRdbuff s1

/-- `selectAp(apIndex, reg8)` (R222). -/
def selectAp (apIndex : ApIndex) (reg8 : Reg8) (s : State) : Res Unit :=
  dpWrite s.cfg.engine.dpSelect (selectWord apIndex reg8) s

/-! ### Meanings -/

/-- End a transfer toward the caller: `rawTransfer` raises no error, its status is what it returns (R190); `RSP_DATA` holds
the data of an OK read (R123; log 27). -/
def respondXfer (isRead : Bool) (x : Xfer) : State :=
  if x.status = .ok ∧ isRead = true then respondValue x.rdata x.st else respondDone x.st

/-- A request byte as an instruction: one whole transfer with that request (R107, R190; log 1). -/
def runRequest (addr : Addr4) (isAP isRead : Bool) (data : Word) (s : State) : State :=
  respondXfer isRead (rawTransfer addr isAP isRead data s)

/-- Run `f` with exactly `bits` driven by the target at the next samples, and give the line back its pending bits (log 1). -/
def answered (bits : List Bool) (f : State → State) (s : State) : State :=
  (f (s.mapInputs fun x => { x with line := bits.map some })).mapInputs fun x => { x with line := s.inputs.line }

/-- An acknowledgement as an instruction: the acknowledgement phase of a frame that the target answers with code `a`, and what
the decoder makes of it (R192; log 1). -/
def runAck (a : BitVec 3) (s : State) : State :=
  let phase := fun u : State =>
    let got := ackPhase u
    got.2.mapPorts fun p => { p with xferStatus := decodeAck u.cfg got.1 }
  respondDone (answered (lsbBits a 3) phase s)

/-- A frame as an instruction: the whole transfer, answered with the frame's own bits (R102; log 1). -/
def runFrame (addr : Addr4) (isAP isRead : Bool) (data : Word) (answer : List Bool) (s : State) : State :=
  answered answer (runRequest addr isAP isRead data) s

def execReqDpRead0 (s : State) : Host.Outcome State Fault Refusal := .next (runRequest 0x0#4 false true 0#32 s)
def execReqDpRead4 (s : State) : Host.Outcome State Fault Refusal := .next (runRequest 0x4#4 false true 0#32 s)
def execReqDpRead8 (s : State) : Host.Outcome State Fault Refusal := .next (runRequest 0x8#4 false true 0#32 s)
def execReqDpReadC (s : State) : Host.Outcome State Fault Refusal := .next (runRequest 0xC#4 false true 0#32 s)
def execReqDpWrite0 (data : Word) (s : State) : Host.Outcome State Fault Refusal := .next (runRequest 0x0#4 false false data s)
def execReqDpWrite4 (data : Word) (s : State) : Host.Outcome State Fault Refusal := .next (runRequest 0x4#4 false false data s)
def execReqDpWrite8 (data : Word) (s : State) : Host.Outcome State Fault Refusal := .next (runRequest 0x8#4 false false data s)
def execReqDpWriteC (data : Word) (s : State) : Host.Outcome State Fault Refusal := .next (runRequest 0xC#4 false false data s)
def execReqApRead0 (s : State) : Host.Outcome State Fault Refusal := .next (runRequest 0x0#4 true true 0#32 s)
def execReqApRead4 (s : State) : Host.Outcome State Fault Refusal := .next (runRequest 0x4#4 true true 0#32 s)
def execReqApRead8 (s : State) : Host.Outcome State Fault Refusal := .next (runRequest 0x8#4 true true 0#32 s)
def execReqApReadC (s : State) : Host.Outcome State Fault Refusal := .next (runRequest 0xC#4 true true 0#32 s)
def execReqApWrite0 (data : Word) (s : State) : Host.Outcome State Fault Refusal := .next (runRequest 0x0#4 true false data s)
def execReqApWrite4 (data : Word) (s : State) : Host.Outcome State Fault Refusal := .next (runRequest 0x4#4 true false data s)
def execReqApWrite8 (data : Word) (s : State) : Host.Outcome State Fault Refusal := .next (runRequest 0x8#4 true false data s)
def execReqApWriteC (data : Word) (s : State) : Host.Outcome State Fault Refusal := .next (runRequest 0xC#4 true false data s)

def execAckReserved000 (s : State) : Host.Outcome State Fault Refusal := .next (runAck 0b000#3 s)
def execAckOk (s : State) : Host.Outcome State Fault Refusal := .next (runAck 0b001#3 s)
def execAckWait (s : State) : Host.Outcome State Fault Refusal := .next (runAck 0b010#3 s)
def execAckReserved011 (s : State) : Host.Outcome State Fault Refusal := .next (runAck 0b011#3 s)
def execAckFault (s : State) : Host.Outcome State Fault Refusal := .next (runAck 0b100#3 s)
def execAckReserved101 (s : State) : Host.Outcome State Fault Refusal := .next (runAck 0b101#3 s)
def execAckReserved110 (s : State) : Host.Outcome State Fault Refusal := .next (runAck 0b110#3 s)
def execAckReserved111 (s : State) : Host.Outcome State Fault Refusal := .next (runAck 0b111#3 s)

/-- OK read frame: acknowledgement OK, data bits, parity bit (R102, R193). -/
def execFrameReadOk (isAP : Bool) (reg : BitVec 2) (data : Word) (par : Bool) (s : State) :
    Host.Outcome State Fault Refusal :=
  .next (runFrame (regAddr reg) isAP true 0#32 (lsbBits s.cfg.engine.ackOk 3 ++ lsbBits data 32 ++ [par]) s)

/-- OK write frame: acknowledgement OK, the block sends the payload (R102, R194). -/
def execFrameWriteOk (isAP : Bool) (reg : BitVec 2) (data : Word) (s : State) : Host.Outcome State Fault Refusal :=
  .next (runFrame (regAddr reg) isAP false data (lsbBits s.cfg.engine.ackOk 3) s)

/-- Not-OK frame: any other acknowledgement, the dummy tail (R102, R195). -/
def execFrameNotOk (isAP isRead : Bool) (reg : BitVec 2) (ack : BitVec 3) (s : State) :
    Host.Outcome State Fault Refusal :=
  .next (runFrame (regAddr reg) isAP isRead 0#32 (lsbBits ack 3) s)

/-- `rawTransfer` called directly (R190). -/
def execRawTransfer (addr : Addr4) (isAP isRead : Bool) (data : Word) (s : State) : Host.Outcome State Fault Refusal :=
  .next (respondXfer isRead (rawTransfer addr isAP isRead data s))

def execDpRead (addr : Addr4) (s : State) : Host.Outcome State Fault Refusal := .next (respondWord (dpRead addr s))
def execDpWrite (addr : Addr4) (data : Word) (s : State) : Host.Outcome State Fault Refusal :=
  .next (respondUnit (dpWrite addr data s))
def execApRead (addr : Addr4) (s : State) : Host.Outcome State Fault Refusal := .next (respondWord (apRead addr s))
def execApWrite (addr : Addr4) (data : Word) (s : State) : Host.Outcome State Fault Refusal :=
  .next (respondUnit (apWrite addr data s))

end Sys2Proof.Machine
end

