-- ==== Sys2Proof/Machine/PowerUp.lean ====
section
/-! DEFINITION. The Power-Up Sequencer and the memory-word access (`43_power_up_and_memory_access.md`). -/

namespace Sys2Proof.Machine

/-- `POLLS_LEFT`, the low 32 bits of the polls left (R36; log 9). -/
def setPollsLeft (n : Nat) (s : State) : State :=
  s.mapSeqRegs fun r => { r with pollsLeft := BitVec.ofNat 32 n }

/-- A delay between two polls, none after the last (R220, R240, R281). -/
def delayIfMore (n : Nat) (p : DelayName) (s : State) : State :=
  if n = 0 then s else delay p s

/-- The power-up poll, `n` polls left (R220): both acknowledge bits in one read. A poll whose read fails did not see them
(D18, D23). -/
def powerUpPoll : Nat → State → Res Unit
  | 0, s => (.error .eTimeout, s)
  | n + 1, s =>
    match dpRead s.cfg.engine.dpCtrlStat s with
    | (.ok v, s1) =>
      if v &&& s1.cfg.power.pwrupAckMask = s1.cfg.power.pwrupAckMask then (.ok (), s1)
      else powerUpPoll n (delayIfMore n .powerupPoll (setPollsLeft n s1))
    | (.error _, s1) => powerUpPoll n (delayIfMore n .powerupPoll (setPollsLeft n s1))

/-- `powerUp()` (R220). -/
def powerUp (s : State) : Res Unit :=
  tryThen (dpWrite s.cfg.engine.dpAbort s.cfg.engine.abortClearPattern s) fun _ s1 =>
    tryThen (dpWrite s1.cfg.engine.dpCtrlStat s1.cfg.power.pwrupReq s1) fun _ s2 =>
      powerUpPoll s2.cfg.power.powerupPollMax (setPollsLeft s2.cfg.power.powerupPollMax s2)

/-- `memApInit()` (R221). -/
def memApInit (s : State) : Res Unit :=
  tryThen (selectAp s.cfg.power.memApIndex s.cfg.power.apCsw s) fun _ s1 =>
    apWrite (regLow s1.cfg.power.apCsw) s1.cfg.power.cswWordValue s1

/-- `memReadWord(addr)`, external name `readWord` (R226). -/
def memReadWord (addr : Word) (s : State) : Res Word :=
  if wordAligned addr then
    tryThen (apWrite (regLow s.cfg.power.apTar) addr s) fun _ s1 => apRead (regLow s1.cfg.power.apDrw) s1
  else (.error .eMisaligned, s)

/-- `memWriteWord(addr, v)`, external name `writeWord` (R227). -/
def memWriteWord (addr v : Word) (s : State) : Res Unit :=
  if wordAligned addr then
    tryThen (apWrite (regLow s.cfg.power.apTar) addr s) fun _ s1 => apWrite (regLow s1.cfg.power.apDrw) v s1
  else (.error .eMisaligned, s)

def execPowerUp (s : State) : Host.Outcome State Fault Refusal := .next (respondUnit (powerUp s))
def execMemApInit (s : State) : Host.Outcome State Fault Refusal := .next (respondUnit (memApInit s))
def execReadWord (addr : Word) (s : State) : Host.Outcome State Fault Refusal := .next (respondWord (memReadWord addr s))
def execWriteWord (addr value : Word) (s : State) : Host.Outcome State Fault Refusal :=
  .next (respondUnit (memWriteWord addr value s))

end Sys2Proof.Machine
end

