-- ==== Sys2Proof/Machine/Flash.lean ====
section
/-! DEFINITION. The Flash Programming Engine (`44_flash_engine.md`). Every access to the target is `memReadWord` or
`memWriteWord`. -/

namespace Sys2Proof.Machine

/-! ### Building blocks -/

/-- The ready poll, `n` polls left, `run` consecutive ready polls seen (R240; log 9). A poll whose read fails did not read
ready (D23). -/
def readyPoll : Nat → Nat → State → Res Unit
  | 0, _, s => (.error .eTimeout, s)
  | n + 1, run, s =>
    let r := memReadWord s.cfg.flash.nvmcReady s
    let ready :=
      match r.1 with
      | .ok v => v &&& r.2.cfg.flash.nvmcReadyMask != 0#32
      | .error _ => false
    let run' := if ready then run + 1 else 0
    let s1 := r.2.mapSeqRegs fun x => { x with readyRun := BitVec.ofNat 2 run' }
    if run' = s1.cfg.flash.readyConsecutive then (.ok (), s1)
    else readyPoll n run' (delayIfMore n .readyPoll (setPollsLeft n s1))

/-- `waitControllerReady(timeoutMs)` (R240). -/
def waitControllerReady (timeoutMs : Nat) (s : State) : Res Unit :=
  let n := polls s.cfg timeoutMs
  readyPoll n 0 ((setPollsLeft n s).mapSeqRegs fun x => { x with readyRun := 0#2 })

/-- `setControllerMode(mode)`: one write, one read-back, "fail loudly if it did not take" (R241). -/
def setControllerMode (mode : NvmcMode) (s : State) : Res Unit :=
  tryThen (memWriteWord s.cfg.flash.nvmcConfig (modeCode s.cfg mode) s) fun _ s1 =>
    tryThen (memReadWord s1.cfg.flash.nvmcConfig s1) fun v s2 =>
      if v &&& s2.cfg.flash.nvmcModeMask = modeCode s2.cfg mode then (.ok (), s2) else (.error .eMode, s2)

/-- `finish(result)`: restore ReadOnly on every exit path; the first error is the one reported (R242, D24). -/
def finish (r : Res Unit) : Res Unit :=
  let m := setControllerMode .readOnly r.2
  match r.1 with
  | .error c => (.error c, m.2)
  | .ok _ => m

/-! ### Page erase, word write, erase-all -/

/-- The samples after a page erase, in list order, stopping at the first that is not erased (R243, D25). -/
def sampleErased (page : Word) : List Word → State → Res Unit
  | [], s => (.ok (), s)
  | off :: rest, s =>
    tryThen (memReadWord (page + off) s) fun v s1 =>
      if v = s1.cfg.flash.erasedWord then sampleErased page rest s1 else (.error .eEraseVerify, s1)

/-- `erasePage`'s body (R243). -/
def erasePageBody (page : Word) (s : State) : Res Unit :=
  tryThen (waitControllerReady s.cfg.flash.readyTimeoutMs s) fun _ s1 =>
    tryThen (setControllerMode .erase s1) fun _ s2 =>
      tryThen (memWriteWord s2.cfg.flash.nvmcErasePage page s2) fun _ s3 =>
        let settled := delay .eraseSettle s3
        tryThen (waitControllerReady settled.cfg.flash.erasePageTimeoutMs settled) fun _ s4 =>
          sampleErased page s4.cfg.flash.eraseVerifyOffsets s4

/-- `erasePage(address)` (R243). -/
def erasePage (address : Word) (s : State) : Res Unit :=
  if inFlash s.cfg address then finish (erasePageBody (alignDown address s.cfg.flash.pageSize) s)
  else (.error .eRange, s)

/-- `flashWriteWord`'s body (R244). -/
def flashWriteWordBody (address data : Word) (s : State) : Res Unit :=
  tryThen (setControllerMode .write s) fun _ s1 =>
    tryThen (memWriteWord address data s1) fun _ s2 =>
      waitControllerReady s2.cfg.flash.writeWordTimeoutMs s2

/-- `flashWriteWord(address, data)`: no range check, no read-back (R244, R248). -/
def flashWriteWord (address data : Word) (s : State) : Res Unit :=
  if wordAligned address then finish (flashWriteWordBody address data s) else (.error .eMisaligned, s)

/-- `eraseAll`'s body: no sampling (R246, D28). The trigger value is 1 (R48). -/
def eraseAllBody (s : State) : Res Unit :=
  tryThen (waitControllerReady s.cfg.flash.readyTimeoutMs s) fun _ s1 =>
    tryThen (setControllerMode .erase s1) fun _ s2 =>
      tryThen (memWriteWord s2.cfg.flash.nvmcEraseAll 1#32 s2) fun _ s3 =>
        let settled := delay .eraseAllSettle s3
        waitControllerReady settled.cfg.flash.eraseAllTimeoutMs settled

/-- `eraseAll()` (R246). -/
def eraseAll (s : State) : Res Unit := finish (eraseAllBody s)

/-! ### Buffered write (R245) -/

/-- `afterWord()`: the periodic ready poll and the coarse progress report (R245). -/
def afterWord (length : Word) (s : State) : Res Unit :=
  let counted := s.mapSeqRegs fun r => { r with sincePoll := r.sincePoll + 1#32 }
  let polled : Res Unit :=
    if counted.seqRegs.sincePoll.toNat = counted.cfg.flash.writePollIntervalWords then
      let zeroed := counted.mapSeqRegs fun r => { r with sincePoll := 0#32 }
      waitControllerReady zeroed.cfg.flash.writeWordTimeoutMs zeroed
    else (.ok (), counted)
  tryThen polled fun _ s1 =>
    if s1.cfg.flash.progressIntervalBytes ≤ s1.seqRegs.idx.toNat - s1.seqRegs.reported.toNat then
      let noted := s1.mapSeqRegs fun r => { r with reported := r.idx }
      (.ok (), progress noted.seqRegs.idx length .write noted)
    else (.ok (), s1)

/-- Splice up to `n` buffer bytes into `WORD` from lane `k` on, while the buffer lasts (R245's inner loops, little-endian
lanes of R66). -/
def spliceBytes (length : Word) : Nat → Nat → State → State
  | 0, _, s => s
  | n + 1, k, s =>
    if s.seqRegs.idx.toNat < length.toNat then
      let got := readBuf s.seqRegs.idx.toNat s
      let s1 := got.2.mapSeqRegs fun r => { r with word := setLane r.word k got.1, idx := r.idx + 1#32 }
      spliceBytes length n (k + 1) s1
    else s

/-- Load lanes `k` to `k + n - 1` of `WORD` with the buffer bytes from `IDX` on, `IDX` as it was (R245's concatenation). DESIGN
CHOICE: the rule gives the four bytes of a word no order of reading; they are read in ascending order (log 24). -/
def loadLanes : Nat → Nat → State → State
  | 0, _, s => s
  | n + 1, k, s =>
    let got := readBuf (s.seqRegs.idx.toNat + k) s
    loadLanes n (k + 1) (got.2.mapSeqRegs fun r => { r with word := setLane r.word k got.1 })

/-- Write `WORD` at `wa`, then move `CUR` behind it and `IDX` on by `taken`, and run `afterWord` (R245). -/
def writeSpliced (wa length taken : Word) (s : State) : Res Unit :=
  tryThen (memWriteWord wa s.seqRegs.word s) fun _ s1 =>
    afterWord length (s1.mapSeqRegs fun r => { r with cur := wa + 4#32, idx := r.idx + taken })

/-- Leading partial word: read, splice, write back (R245). -/
def leadingWord (length : Word) (s : State) : Res Unit :=
  let lane := (s.seqRegs.cur.setWidth 2).toNat
  if lane = 0 then (.ok (), s)
  else
    let wa := alignDown s.seqRegs.cur 4
    tryThen (memReadWord wa s) fun v s1 =>
      let loaded := s1.mapSeqRegs fun r => { r with word := v }
      writeSpliced wa length 0#32 (spliceBytes length (4 - lane) lane loaded)

/-- Whole words, `n` of them at most, while four bytes are left; `IDX` moves behind the word's write only (R245). -/
def wholeWords (length : Word) : Nat → State → Res Unit
  | 0, s => (.ok (), s)
  | n + 1, s =>
    if 4 ≤ length.toNat - s.seqRegs.idx.toNat then
      tryThen (writeSpliced s.seqRegs.cur length 4#32 (loadLanes 4 0 s)) fun _ s1 => wholeWords length n s1
    else (.ok (), s)

/-- Trailing partial word: all-ones fill, not read first (R245). -/
def trailingWord (length : Word) (s : State) : Res Unit :=
  if s.seqRegs.idx.toNat < length.toNat then
    let filled := s.mapSeqRegs fun r => { r with word := 0xFFFFFFFF#32 }
    tryThen (memWriteWord s.seqRegs.cur (spliceBytes length 4 0 filled).seqRegs.word (spliceBytes length 4 0 filled))
      fun _ s1 => afterWord length s1
  else (.ok (), s)

/-- The closing ready wait and the closing progress report (R245, corner case f). -/
def closeTail (length : Word) (s : State) : Res Unit :=
  let waited : Res Unit :=
    if s.seqRegs.sincePoll = 0#32 then (.ok (), s) else waitControllerReady s.cfg.flash.writeWordTimeoutMs s
  tryThen waited fun _ s1 =>
    if s1.seqRegs.reported = length then (.ok (), s1) else (.ok (), progress length length .write s1)

/-- `writeBuffer`'s body (R245). -/
def writeBufferBody (address length : Word) (s : State) : Res Unit :=
  tryThen (setControllerMode .write s) fun _ s1 =>
    let started :=
      s1.mapSeqRegs fun r => { r with cur := address, idx := 0#32, sincePoll := 0#32, reported := 0#32 }
    tryThen (leadingWord length started) fun _ s2 =>
      tryThen (wholeWords length (length.toNat / 4) s2) fun _ s3 =>
        tryThen (trailingWord length s3) fun _ s4 => closeTail length s4

/-- `writeBuffer(address, data, length, onProgress)` (R245). -/
def writeBuffer (address length : Word) (s : State) : Res Unit :=
  if length = 0#32 then (.ok (), s)
  else if 2 ^ 32 < address.toNat + length.toNat then (.error .eRange, s)
  else finish (writeBufferBody address length s)

/-! ### Firmware update (R247) -/

/-- Erase `n` pages from `page` on, `done` of `total` erased so far, reporting per-page progress (R247).
DESIGN CHOICE: a size `n * PAGE_SIZE` of 2^32 shows its low 32 bits in the report (R10; log 9). -/
def erasePages (total : Nat) : Nat → Nat → Word → State → Res Unit
  | 0, _, _, s => (.ok (), s)
  | n + 1, done, page, s =>
    let at' := s.mapSeqRegs fun r => { r with cur := page }
    tryThen (erasePage page at') fun _ s1 =>
      let size := s1.cfg.flash.pageSize
      let reported := progress (BitVec.ofNat 32 ((done + 1) * size)) (BitVec.ofNat 32 (total * size)) .erase s1
      erasePages total n (done + 1) (page + BitVec.ofNat 32 size) reported

/-- Compare the bytes of `w` at `cur` that lie inside the span with the buffer, lanes `k` on; `none` at the first that
differs (R247). -/
def compareLanes (start length w : Word) (cur : Nat) : Nat → Nat → State → Bool × State
  | 0, _, s => (true, s)
  | n + 1, k, s =>
    let a := cur + k
    if start.toNat ≤ a ∧ a < start.toNat + length.toNat then
      let got := readBuf (a - start.toNat) s
      if byteLane w k = got.1 then compareLanes start length w cur n (k + 1) got.2 else (false, got.2)
    else compareLanes start length w cur n (k + 1) s

/-- The verify loop, `n` words left, the next at `cur` (R247): whole words read, only the span's bytes compared, stop at the
first mismatch, progress under "verify". -/
def verifyWords (start length : Word) : Nat → Nat → State → Res Unit
  | 0, _, s => (.ok (), s)
  | n + 1, cur, s =>
    tryThen (memReadWord (BitVec.ofNat 32 cur) s) fun w s1 =>
      let c := compareLanes start length w cur 4 0 s1
      if c.1 then
        let done := min (cur + 4) (start.toNat + length.toNat) - start.toNat
        let moved := c.2.mapSeqRegs fun r => { r with cur := BitVec.ofNat 32 (cur + 4) }
        let s2 :=
          if moved.cfg.flash.progressIntervalBytes ≤ done - moved.seqRegs.reported.toNat ∨ done = length.toNat then
            progress (BitVec.ofNat 32 done) length .verify
              (moved.mapSeqRegs fun r => { r with reported := BitVec.ofNat 32 done })
          else moved
        verifyWords start length n (cur + 4) s2
      else (.error .eWriteVerify, c.2)

/-- `updateFirmware`'s verification of the whole span (R247). DESIGN CHOICE: the loop's `start + length` is taken as a natural
number, not modulo 2^32 (R10), so that a span that ends at 2^32 is verified whole (log 32). -/
def verifySpan (start length : Word) (s : State) : Res Unit :=
  let first := (alignDown start 4).toNat
  let words := (start.toNat + length.toNat - first + 3) / 4
  verifyWords start length words first
    (s.mapSeqRegs fun r => { r with cur := alignDown start 4, reported := 0#32 })

/-- `updateFirmware(start, data, length, verify, onProgress)` (R247). -/
def updateFirmware (start length : Word) (verify : Bool) (s : State) : Res Unit :=
  if length = 0#32 then (.ok (), s)
  else if spanInFlash s.cfg start length then
    let size := s.cfg.flash.pageSize
    let first := alignDown start size
    let last := alignDown (BitVec.ofNat 32 (start.toNat + length.toNat - 1)) size
    let n := (last.toNat - first.toNat) / size + 1
    tryThen (erasePages n n 0 first s) fun _ s1 =>
      tryThen (writeBuffer start length s1) fun _ s2 =>
        if verify then verifySpan start length s2 else (.ok (), s2)
  else (.error .eRange, s)

/-! ### Meanings -/

def execWaitControllerReady (timeoutMs : Word) (s : State) : Host.Outcome State Fault Refusal :=
  .next (respondUnit (waitControllerReady timeoutMs.toNat s))
def execSetControllerMode (mode : NvmcMode) (s : State) : Host.Outcome State Fault Refusal :=
  .next (respondUnit (setControllerMode mode s))
def execErasePage (address : Word) (s : State) : Host.Outcome State Fault Refusal :=
  .next (respondUnit (erasePage address s))
def execFlashWriteWord (address data : Word) (s : State) : Host.Outcome State Fault Refusal :=
  .next (respondUnit (flashWriteWord address data s))
def execWriteBuffer (address length : Word) (s : State) : Host.Outcome State Fault Refusal :=
  .next (respondUnit (writeBuffer address length s))
def execEraseAll (s : State) : Host.Outcome State Fault Refusal := .next (respondUnit (eraseAll s))
def execUpdateFirmware (start length : Word) (verify : Bool) (s : State) : Host.Outcome State Fault Refusal :=
  .next (respondUnit (updateFirmware start length verify s))

end Sys2Proof.Machine
end

