-- ==== Sys2Proof/Machine/Link.lean ====
section
/-! DEFINITION. Meanings of the Bit-Level Link's operations (`40_bit_link.md`) and of the fixed wire sequences
(`30_encoding.md` R112 to R114). No operation here returns an error (R149). -/

namespace Sys2Proof.Machine

/-- The event of a pulse that no caller named: the line driven with the latch's bit, or released with no sample taken, in the
words of R38. DESIGN CHOICE: log 14. -/
def bareEvent (s : State) : Event :=
  if s.pins.swdioOe then .w s.pins.swdioOut else .t false

/-- `clockPulse()` (R140). -/
def execClockPulse (s : State) : Host.Outcome State Fault Refusal :=
  .next (respondDone (clockPulse (bareEvent s) s))

/-- `writeBits(value, count)` (R141). -/
def execWriteBits (value : Word) (count : BitVec 6) (s : State) : Host.Outcome State Fault Refusal :=
  .next (respondDone (writeBits value count.toNat s))

/-- `readBits(count)` (R142). -/
def execReadBits (count : BitVec 6) (s : State) : Host.Outcome State Fault Refusal :=
  .next (respondValue (readBits count.toNat s).1 (readBits count.toNat s).2)

/-- `turnaround(toWrite)` (R143). -/
def execTurnaround (toWrite : Bool) (s : State) : Host.Outcome State Fault Refusal :=
  .next (respondDone (turnaround toWrite s))

/-- `lineReset()` (R144). -/
def execLineReset (s : State) : Host.Outcome State Fault Refusal :=
  .next (respondDone (lineReset s))

/-- `jtagToSwdSequence()` (R145). -/
def execJtagToSwdSequence (s : State) : Host.Outcome State Fault Refusal :=
  .next (respondDone (jtagToSwdSequence s))

/-- `dormantWakeSequence()` (R146). -/
def execDormantWakeSequence (s : State) : Host.Outcome State Fault Refusal :=
  .next (respondDone (dormantWakeSequence s))

/-- `parity32(v)`: a pure function, nothing on the wire, the parity in bit 0 of the result (R123, R147). -/
def execParity32 (v : Word) (s : State) : Host.Outcome State Fault Refusal :=
  .next (respondValue (if parity32 v then 1#32 else 0#32) s)

/-- The line-reset format (R112). -/
def execSeqLineReset (s : State) : Host.Outcome State Fault Refusal :=
  .next (respondDone (lineReset s))

/-- The JTAG-to-SWD select format (R113). -/
def execSeqJtagToSwd (s : State) : Host.Outcome State Fault Refusal :=
  .next (respondDone (jtagToSwdSequence s))

/-- The dormant-wake format (R114). -/
def execSeqDormantWake (s : State) : Host.Outcome State Fault Refusal :=
  .next (respondDone (dormantWakeSequence s))

end Sys2Proof.Machine
end

