-- ==== Sys2Proof/Machine/Sequencer.lean ====
section
/-! DEFINITION. The Connection Sequencer (`41_connection_sequencer.md`): the only writer of `ConnectionState` (R175). -/

namespace Sys2Proof.Machine

/-- Session re-initialisation, the first step of `connect`: no clock pulse, nothing on `TRACE` (R170, R341). -/
def sessionReinit (s : State) : State :=
  let off := s.setConnection .disconnected
  let pins := off.mapPins fun p => { p with swclk := false, swdioOut := true, swdioOe := true }
  pins.mapSession fun x => { x with driveState := .driven }

/-- `readIdcode()`: the identification read and its validity test (R171). -/
def readIdcode (s : State) : Res Word :=
  tryThen (dpRead s.cfg.engine.dpIdcode s) fun v s1 =>
    if deadIdcode v then (.error .eNoTarget, s1) else (.ok v, s1)

/-- Store the identification code (R32). -/
def setIdcode (v : Word) (s : State) : State :=
  s.mapSession fun x => { x with idcodeReg := v }

/-- The identification read by the dormant wake, else by line reset and protocol select (R170). -/
def identify (s : State) : Res Word :=
  match readIdcode (dormantWakeSequence s) with
  | (.ok v, s1) => (.ok v, s1)
  | (.error _, s1) =>
    match readIdcode (jtagToSwdSequence (lineReset s1)) with
    | (.ok v, s2) => (.ok v, s2)
    | (.error _, s2) => (.error .eConnect, s2)

/-- `connect()` (R170). -/
def connect (s : State) : Res Word :=
  tryThen (identify (sessionReinit s)) fun v s1 =>
    tryThen (powerUp (setIdcode v s1)) fun _ s2 =>
      tryThen (memApInit s2) fun _ s3 => (.ok s3.session.idcodeReg, s3.setConnection .connected)

/-- `disconnect()` (R172). -/
def disconnect (s : State) : State :=
  (lineReset s).setConnection .disconnected

/-- `isConnected()`: no wire activity when the flag is already down; it never upgrades (R173). -/
def isConnected (s : State) : Bool × State :=
  if s.session.connectionState = .disconnected then (false, s)
  else
    match readIdcode s with
    | (.ok v, s1) => (true, setIdcode v s1)
    | (.error _, s1) => (false, s1.setConnection .disconnected)

/-- Set the reset pin asserted or released, with its event (R24, R174). -/
def driveNreset (asserted : Bool) (s : State) : State :=
  let level := if asserted then s.cfg.wire.nresetActiveLevel else !s.cfg.wire.nresetActiveLevel
  (s.mapPins fun p => { p with nreset := level }).emit (.nrst asserted)

/-- `resetTarget()` (R174). -/
def resetTarget (s : State) : Res Word :=
  if s.cfg.link.hasNreset then
    let held := delay .resetAssert (driveNreset true s)
    connect (delay .resetRelease (driveNreset false held))
  else (.error .eUnsupported, s)

def execConnect (s : State) : Host.Outcome State Fault Refusal := .next (respondWord (connect s))
def execDisconnect (s : State) : Host.Outcome State Fault Refusal := .next (respondDone (disconnect s))
/-- The Boolean answer in bit 0 of the result, the status always Ok (R173). -/
def execIsConnected (s : State) : Host.Outcome State Fault Refusal :=
  .next (respondValue (if (isConnected s).1 then 1#32 else 0#32) (isConnected s).2)
def execResetTarget (s : State) : Host.Outcome State Fault Refusal := .next (respondWord (resetTarget s))

end Sys2Proof.Machine
end

