-- ==== Sys2Proof/Machine/MassErase.lean ====
section
/-! DEFINITION. The Protection-Bypass / Mass-Erase Engine (`45_mass_erase.md`). -/

namespace Sys2Proof.Machine

/-- Store the control port's index (R33). -/
def setCtrlApIndex (i : ApIndex) (s : State) : State :=
  s.mapSession fun x => { x with ctrlApIndex := i }

/-- The scan, `n` indices left, the next `k` (R280). A select or a read that fails is an index that did not match; the first
match wins; the fallback index is used when none does (D30). -/
def scanPorts : Nat → Nat → State → ApIndex × State
  | 0, _, s => (s.cfg.ctrlAp.fallbackIndex, setCtrlApIndex s.cfg.ctrlAp.fallbackIndex s)
  | n + 1, k, s =>
    let at' := s.mapSeqRegs fun r => { r with scan := BitVec.ofNat 9 k }
    match selectAp (BitVec.ofNat 8 k) at'.cfg.power.apIdr at' with
    | (.error _, s1) => scanPorts n (k + 1) s1
    | (.ok _, s1) =>
      match apRead (regLow s1.cfg.power.apIdr) s1 with
      | (.error _, s2) => scanPorts n (k + 1) s2
      | (.ok v, s2) =>
        if v &&& s2.cfg.ctrlAp.idrMask = s2.cfg.ctrlAp.idrValue then
          (BitVec.ofNat 8 k, setCtrlApIndex (BitVec.ofNat 8 k) s2)
        else scanPorts n (k + 1) s2

/-- `findControlAccessPort()` (R280). -/
def findControlAccessPort (s : State) : ApIndex × State :=
  scanPorts s.cfg.ctrlAp.scanCount 0 s

/-- Set `FIRST_ERR` (R36). -/
def setFirstErr (e : Option ErrCode) (s : State) : State :=
  s.mapSeqRegs fun r => { r with firstErr := e }

/-- `note(r)`: the first error is kept (R281). -/
def note {α : Type} (r : Res α) : State :=
  match r with
  | (.ok _, s) => s
  | (.error c, s) => if s.seqRegs.firstErr = none then setFirstErr (some c) s else s

/-- A step that runs only while no error is noted (R281). -/
def ifNoErr (f : State → State) (s : State) : State :=
  if s.seqRegs.firstErr = none then f s else s

/-- The status poll, `n` of `total` polls left (R281); a poll whose read fails did not read idle (D23). DESIGN CHOICE: a count of
2^32 polls or more shows its low 32 bits in the report (R10; log 9). -/
def statusPoll (total : Nat) : Nat → State → State
  | 0, s => setFirstErr (some .eTimeout) s
  | n + 1, s =>
    let r := apRead (regLow s.cfg.ctrlAp.ctrlapEraseAllStatus) s
    let s1 := setPollsLeft n r.2
    let idle :=
      match r.1 with
      | .ok v => v == s1.cfg.ctrlAp.statusIdle
      | .error _ => false
    let shown := if idle then total else total - n
    let s2 := progress (BitVec.ofNat 32 shown) (BitVec.ofNat 32 total) .massErase s1
    if idle then s2 else statusPoll total n (delayIfMore n .massErasePoll s2)

/-- Phase 1 behind the first select: the optional reset, the trigger, the poll (R281). -/
def erasePhase (s : State) : State :=
  let c := s.cfg.ctrlAp
  let held := if c.assertReset then note (apWrite (regLow c.ctrlapReset) c.resetAssert s) else s
  let triggered := ifNoErr (fun u => note (apWrite (regLow c.ctrlapEraseAll) c.eraseAllStart u)) held
  let total := mpolls s.cfg c.massEraseTimeoutMs
  ifNoErr (fun u => statusPoll total total (setPollsLeft total u)) triggered

/-- Phase 2: release the reset and select the memory-access port, on every path that reached it (R281). -/
def leavePhase (s : State) : State :=
  let c := s.cfg.ctrlAp
  let released := note (apWrite (regLow c.ctrlapReset) c.resetRelease s)
  note (selectAp released.cfg.power.memApIndex released.cfg.power.apCsw released)

/-- The erased samples, all of them read; a read that fails is that transport error (R281, corner case f). -/
def verifyAddrs : List Word → Bool → State → Res Bool
  | [], verified, s => (.ok verified, s)
  | a :: rest, verified, s =>
    tryThen (memReadWord a s) fun v s1 => verifyAddrs rest (verified && v == s1.cfg.flash.erasedWord) s1

/-- Phase 4: verification of the samples and of the protection status (R281, R282). -/
def verifyPhase (ap : ApIndex) (s : State) : Res Unit :=
  tryThen (verifyAddrs s.cfg.ctrlAp.verifyAddrs true s) fun verified s1 =>
    tryThen (selectAp ap s1.cfg.ctrlAp.ctrlapApprotectStatus s1) fun _ s2 =>
      let p := apRead (regLow s2.cfg.ctrlAp.ctrlapApprotectStatus) s2
      let back := note (selectAp p.2.cfg.power.memApIndex p.2.cfg.power.apCsw p.2)
      match p.1 with
      | .error c => (.error c, back)
      | .ok v =>
        match back.seqRegs.firstErr with
        | some c => (.error c, back)
        | none =>
          if verified ∧ v &&& back.cfg.ctrlAp.unlockedMask ≠ 0#32 then (.ok (), back)
          else (.error .eMassEraseVerify, back)

/-- `massErase(onProgress)` (R281). -/
def massErase (s : State) : Res Unit :=
  let found := findControlAccessPort s
  let ap := found.1
  tryThen (selectAp ap found.2.cfg.ctrlAp.ctrlapReset (setFirstErr none found.2)) fun _ s1 =>
    let s2 := leavePhase (erasePhase s1)
    match s2.seqRegs.firstErr with
    | some c => (.error c, s2)
    | none =>
      tryThen (connect (disconnect s2)) fun _ s3 =>
        tryThen (memApInit s3) fun _ s4 => verifyPhase ap s4

/-- The index in bits 7:0 of the result, no error (R123, R280). -/
def execFindControlAccessPort (s : State) : Host.Outcome State Fault Refusal :=
  .next (respondValue ((findControlAccessPort s).1.setWidth 32) (findControlAccessPort s).2)
def execMassErase (s : State) : Host.Outcome State Fault Refusal := .next (respondUnit (massErase s))

end Sys2Proof.Machine
end

