-- ==== Sys2Proof/Machine/Reset.lean ====
section
/-! DEFINITION. `linkInit`, the block's reset (`70_reset_and_hazards.md` R340; `10_state.md` R53). -/

namespace Sys2Proof.Machine

/-- The pins of a LinkConfig are distinct (R340). -/
def linkConfigValid (c : LinkConfig) : Bool :=
  c.pinSwclk != c.pinSwdio && (!c.hasNreset || (c.pinNreset != c.pinSwclk && c.pinNreset != c.pinSwdio))

/-- A power of two that is at least 16 (R340). -/
def validPageSize (n : Nat) : Bool :=
  decide (16 ≤ n) && n &&& (n - 1) == 0

/-- The sample offsets of a page erase (R340). -/
def validOffsets (page : Nat) (offs : List Word) : Bool :=
  offs.all (fun o => wordAligned o && decide (o.toNat < page)) && offs.contains 0#32
    && offs.any (fun o => o.toNat == page - 4) && decide (3 ≤ offs.length)

/-- The flash parameters' constraints (R340). -/
def flashParamsValid (f : FlashParams) : Bool :=
  decide (1 ≤ f.readyConsecutive) && decide (1 ≤ f.writePollIntervalWords) && decide (1 ≤ f.progressIntervalBytes)
    && decide (1 ≤ f.readyPollIntervalMs) && validPageSize f.pageSize && f.flashBase % f.pageSize == 0
    && f.flashSize % f.pageSize == 0 && decide (f.flashBase + f.flashSize ≤ 2 ^ 32)
    && validOffsets f.pageSize f.eraseVerifyOffsets

/-- The mass-erase parameters' constraints (R340). -/
def ctrlApParamsValid (c : CtrlApParams) : Bool :=
  decide (1 ≤ c.massErasePollIntervalMs) && c.verifyAddrs.all wordAligned && decide (2 ≤ c.verifyAddrs.length)
    && decide (1 ≤ c.scanCount) && decide (c.scanCount ≤ 256)

/-- `valid(config)` (R340). -/
def validConfig (p : Params) : Bool :=
  linkConfigValid p.link && decide (50 ≤ p.wire.lineResetHighCycles) && decide (1 ≤ p.wire.lineResetLowCycles)
    && decide (1 ≤ p.engine.maxAttempts) && decide (1 ≤ p.power.powerupPollMax) && flashParamsValid p.flash
    && ctrlApParamsValid p.ctrlAp

/-- The state a successful `linkInit` leaves (R53, R340): no clock pulse, no event, the registers R53 calls unspecified at
free values (log 28), the target not touched. -/
def initialised (p : Params) (s : State) : State :=
  let loaded := s.setCfg p
  let pins :=
    loaded.mapPins fun x =>
      { swclk := false
        swdioOut := true
        swdioOe := true
        nreset := if p.link.hasNreset then !p.wire.nresetActiveLevel else x.nreset }
  let session :=
    pins.mapSession fun x =>
      { x with driveState := .driven, connectionState := .disconnected, lock := false }
  freeIdcode (freeCtrlApIndex (freeWorkingRegs (session.setTrace [])))

/-- `linkInit(config)` (R340): a malformed configuration is rejected with the state kept. -/
def linkInit (p : Params) (s : State) : Res Unit :=
  if validConfig p then (.ok (), initialised p s) else (.error .eConfig, s)

/-- `linkInit` on the configuration the host presents; `CMD_ADDR` and `CMD_DATA` are opaque handles of it (R123; log 10). -/
def execLinkInit (_cfgA _cfgD : Word) (s : State) : Host.Outcome State Fault Refusal :=
  .next (respondUnit (linkInit s.inputs.config s))

end Sys2Proof.Machine
end

