-- ==== Sys2Proof/Machine/Dispatch.lean ====
section
/-! DEFINITION. One arm per constructor of `Instr`, each one direct call of its meaning. -/

namespace Sys2Proof.Machine

def exec (i : Instr) (s : State) : Host.Outcome State Fault Refusal :=
  match i with
  | .reqDpRead0 => Sys2Proof.Machine.execReqDpRead0 s
  | .reqDpRead4 => Sys2Proof.Machine.execReqDpRead4 s
  | .reqDpRead8 => Sys2Proof.Machine.execReqDpRead8 s
  | .reqDpReadC => Sys2Proof.Machine.execReqDpReadC s
  | .reqDpWrite0 data => Sys2Proof.Machine.execReqDpWrite0 data s
  | .reqDpWrite4 data => Sys2Proof.Machine.execReqDpWrite4 data s
  | .reqDpWrite8 data => Sys2Proof.Machine.execReqDpWrite8 data s
  | .reqDpWriteC data => Sys2Proof.Machine.execReqDpWriteC data s
  | .reqApRead0 => Sys2Proof.Machine.execReqApRead0 s
  | .reqApRead4 => Sys2Proof.Machine.execReqApRead4 s
  | .reqApRead8 => Sys2Proof.Machine.execReqApRead8 s
  | .reqApReadC => Sys2Proof.Machine.execReqApReadC s
  | .reqApWrite0 data => Sys2Proof.Machine.execReqApWrite0 data s
  | .reqApWrite4 data => Sys2Proof.Machine.execReqApWrite4 data s
  | .reqApWrite8 data => Sys2Proof.Machine.execReqApWrite8 data s
  | .reqApWriteC data => Sys2Proof.Machine.execReqApWriteC data s
  | .ackReserved000 => Sys2Proof.Machine.execAckReserved000 s
  | .ackOk => Sys2Proof.Machine.execAckOk s
  | .ackWait => Sys2Proof.Machine.execAckWait s
  | .ackReserved011 => Sys2Proof.Machine.execAckReserved011 s
  | .ackFault => Sys2Proof.Machine.execAckFault s
  | .ackReserved101 => Sys2Proof.Machine.execAckReserved101 s
  | .ackReserved110 => Sys2Proof.Machine.execAckReserved110 s
  | .ackReserved111 => Sys2Proof.Machine.execAckReserved111 s
  | .frameReadOk isAP reg data par => Sys2Proof.Machine.execFrameReadOk isAP reg data par s
  | .frameWriteOk isAP reg data => Sys2Proof.Machine.execFrameWriteOk isAP reg data s
  | .frameNotOk isAP isRead reg ack => Sys2Proof.Machine.execFrameNotOk isAP isRead reg ack s
  | .seqLineReset => Sys2Proof.Machine.execSeqLineReset s
  | .seqJtagToSwd => Sys2Proof.Machine.execSeqJtagToSwd s
  | .seqDormantWake => Sys2Proof.Machine.execSeqDormantWake s
  | .linkInit cfgA cfgD => Sys2Proof.Machine.execLinkInit cfgA cfgD s
  | .clockPulse => Sys2Proof.Machine.execClockPulse s
  | .writeBits value count => Sys2Proof.Machine.execWriteBits value count s
  | .readBits count => Sys2Proof.Machine.execReadBits count s
  | .turnaround toWrite => Sys2Proof.Machine.execTurnaround toWrite s
  | .lineReset => Sys2Proof.Machine.execLineReset s
  | .jtagToSwdSequence => Sys2Proof.Machine.execJtagToSwdSequence s
  | .dormantWakeSequence => Sys2Proof.Machine.execDormantWakeSequence s
  | .parity32 v => Sys2Proof.Machine.execParity32 v s
  | .connect => Sys2Proof.Machine.execConnect s
  | .disconnect => Sys2Proof.Machine.execDisconnect s
  | .isConnected => Sys2Proof.Machine.execIsConnected s
  | .resetTarget => Sys2Proof.Machine.execResetTarget s
  | .rawTransfer addr isAP isRead data => Sys2Proof.Machine.execRawTransfer addr isAP isRead data s
  | .dpRead addr => Sys2Proof.Machine.execDpRead addr s
  | .dpWrite addr data => Sys2Proof.Machine.execDpWrite addr data s
  | .apRead addr => Sys2Proof.Machine.execApRead addr s
  | .apWrite addr data => Sys2Proof.Machine.execApWrite addr data s
  | .powerUp => Sys2Proof.Machine.execPowerUp s
  | .memApInit => Sys2Proof.Machine.execMemApInit s
  | .readWord addr => Sys2Proof.Machine.execReadWord addr s
  | .writeWord addr value => Sys2Proof.Machine.execWriteWord addr value s
  | .waitControllerReady timeoutMs => Sys2Proof.Machine.execWaitControllerReady timeoutMs s
  | .setControllerMode mode => Sys2Proof.Machine.execSetControllerMode mode s
  | .erasePage address => Sys2Proof.Machine.execErasePage address s
  | .flashWriteWord address data => Sys2Proof.Machine.execFlashWriteWord address data s
  | .writeBuffer address length => Sys2Proof.Machine.execWriteBuffer address length s
  | .eraseAll => Sys2Proof.Machine.execEraseAll s
  | .updateFirmware start length verify => Sys2Proof.Machine.execUpdateFirmware start length verify s
  | .findControlAccessPort => Sys2Proof.Machine.execFindControlAccessPort s
  | .massErase => Sys2Proof.Machine.execMassErase s

end Sys2Proof.Machine
end

