-- ==== Sys2Proof/WellFormed.lean ====
section
/-! DEFINITION. Which terms of `Instr` the encodings admit. -/

namespace Sys2Proof

/-- The operand conditions the types do not carry: a bit count is 0 to 32 (R141, R142, D11), and the acknowledgement of a
not-OK frame is not the OK code 0b001 (R102, R108). -/
def Instr.wf : Instr → Bool
  | .reqDpRead0 => true
  | .reqDpRead4 => true
  | .reqDpRead8 => true
  | .reqDpReadC => true
  | .reqDpWrite0 _ => true
  | .reqDpWrite4 _ => true
  | .reqDpWrite8 _ => true
  | .reqDpWriteC _ => true
  | .reqApRead0 => true
  | .reqApRead4 => true
  | .reqApRead8 => true
  | .reqApReadC => true
  | .reqApWrite0 _ => true
  | .reqApWrite4 _ => true
  | .reqApWrite8 _ => true
  | .reqApWriteC _ => true
  | .ackReserved000 => true
  | .ackOk => true
  | .ackWait => true
  | .ackReserved011 => true
  | .ackFault => true
  | .ackReserved101 => true
  | .ackReserved110 => true
  | .ackReserved111 => true
  | .frameReadOk _ _ _ _ => true
  | .frameWriteOk _ _ _ => true
  | .frameNotOk _ _ _ ack => ack != 1#3
  | .seqLineReset => true
  | .seqJtagToSwd => true
  | .seqDormantWake => true
  | .linkInit _ _ => true
  | .clockPulse => true
  | .writeBits _ count => decide (count.toNat ≤ 32)
  | .readBits count => decide (count.toNat ≤ 32)
  | .turnaround _ => true
  | .lineReset => true
  | .jtagToSwdSequence => true
  | .dormantWakeSequence => true
  | .parity32 _ => true
  | .connect => true
  | .disconnect => true
  | .isConnected => true
  | .resetTarget => true
  | .rawTransfer _ _ _ _ => true
  | .dpRead _ => true
  | .dpWrite _ _ => true
  | .apRead _ => true
  | .apWrite _ _ => true
  | .powerUp => true
  | .memApInit => true
  | .readWord _ => true
  | .writeWord _ _ => true
  | .waitControllerReady _ => true
  | .setControllerMode _ => true
  | .erasePage _ => true
  | .flashWriteWord _ _ => true
  | .writeBuffer _ _ => true
  | .eraseAll => true
  | .updateFirmware _ _ _ => true
  | .findControlAccessPort => true
  | .massErase => true

end Sys2Proof
end

