-- ==== Sys2Proof/Decode.lean ====
section
/-! DEFINITION. The decoder of the host command port, of direct calls and of the wire formats (`30_encoding.md`), total and
rejecting by name, and after it the encoder. A wire format is the list of its bits in wire order. A turnaround pulse of a frame
stands as the level the block leaves the line at: 0 for `T(0)`, 1 for `T(1)` (log 22). -/

namespace Sys2Proof

open Sys2Proof.Machine

/-- The operations the command port accepts (R100, R123, D37). -/
def externalOp (op : BitVec 8) : Bool :=
  match op.toNat with
  | 0x00 => true
  | 0x10 => true
  | 0x11 => true
  | 0x12 => true
  | 0x13 => true
  | 0x32 => true
  | 0x33 => true
  | 0x42 => true
  | 0x43 => true
  | 0x44 => true
  | 0x45 => true
  | 0x46 => true
  | 0x51 => true
  | _ => false

/-- A bit count operand: 0 to 32 (R141, R142, D11). -/
def decodeCount (len : Word) (k : BitVec 6 → Instr) : Except DecodeError Instr :=
  if len.toNat ≤ 32 then .ok (k (len.setWidth 6)) else .error (.countOutOfRange len)

/-- `CMD_DATA[1:0]` as a mode (R123, R241). DESIGN CHOICE: 0, 1, 2 under every configuration, whatever the codes
`MODE_READONLY`, `MODE_WRITE`, `MODE_ERASE` are (log 34). -/
def decodeMode (data : Word) : Except DecodeError Instr :=
  match (data.setWidth 2).toNat with
  | 0 => .ok (.setControllerMode .readOnly)
  | 1 => .ok (.setControllerMode .write)
  | 2 => .ok (.setControllerMode .erase)
  | _ => .error (.modeOutOfRange data)

/-- The operation a command tuple names (R123). Operands a command does not take, and reserved flag bits, are ignored
(R119). -/
def decodeCommand (c : Command) : Except DecodeError Instr :=
  match c.op.toNat with
  | 0x00 => .ok (.linkInit c.addr c.data)
  | 0x01 => .ok .clockPulse
  | 0x02 => decodeCount c.len (.writeBits c.data)
  | 0x03 => decodeCount c.len .readBits
  | 0x04 => .ok (.turnaround (c.flags.getLsbD 0))
  | 0x05 => .ok .lineReset
  | 0x06 => .ok .jtagToSwdSequence
  | 0x07 => .ok .dormantWakeSequence
  | 0x08 => .ok (.parity32 c.data)
  | 0x10 => .ok .connect
  | 0x11 => .ok .disconnect
  | 0x12 => .ok .isConnected
  | 0x13 => .ok .resetTarget
  | 0x20 => .ok (.rawTransfer (c.addr.setWidth 4) (c.flags.getLsbD 1) (c.flags.getLsbD 0) c.data)
  | 0x21 => .ok (.dpRead (c.addr.setWidth 4))
  | 0x22 => .ok (.dpWrite (c.addr.setWidth 4) c.data)
  | 0x23 => .ok (.apRead (c.addr.setWidth 4))
  | 0x24 => .ok (.apWrite (c.addr.setWidth 4) c.data)
  | 0x30 => .ok .powerUp
  | 0x31 => .ok .memApInit
  | 0x32 => .ok (.readWord c.addr)
  | 0x33 => .ok (.writeWord c.addr c.data)
  | 0x40 => .ok (.waitControllerReady c.len)
  | 0x41 => decodeMode c.data
  | 0x42 => .ok (.erasePage c.addr)
  | 0x43 => .ok (.flashWriteWord c.addr c.data)
  | 0x44 => .ok (.writeBuffer c.addr c.len)
  | 0x45 => .ok .eraseAll
  | 0x46 => .ok (.updateFirmware c.addr c.len (c.flags.getLsbD 0))
  | 0x50 => .ok .findControlAccessPort
  | 0x51 => .ok .massErase
  | _ => .error (.noSuchOperation c.op)

/-- A request byte, and behind a write request its payload (R104, R107; log 22). A write request of eight bits alone, the width
of its table row, has no payload in the spec: DESIGN CHOICE, unsafe, it runs with payload 0 (log 35). -/
def decodeRequestByte (req : BitVec 8) (payload : List Bool) : Except DecodeError Instr :=
  let data := ofLsbBits 32 payload
  let read (i : Instr) : Except DecodeError Instr :=
    if payload = [] then .ok i else .error (.payloadOnRead req)
  match req.toNat with
  | 0xA5 => read .reqDpRead0
  | 0x8D => read .reqDpRead4
  | 0x95 => read .reqDpRead8
  | 0xBD => read .reqDpReadC
  | 0x81 => .ok (.reqDpWrite0 data)
  | 0xA9 => .ok (.reqDpWrite4 data)
  | 0xB1 => .ok (.reqDpWrite8 data)
  | 0x99 => .ok (.reqDpWriteC data)
  | 0x87 => read .reqApRead0
  | 0xAF => read .reqApRead4
  | 0xB7 => read .reqApRead8
  | 0x9F => read .reqApReadC
  | 0xA3 => .ok (.reqApWrite0 data)
  | 0x8B => .ok (.reqApWrite4 data)
  | 0x93 => .ok (.reqApWrite8 data)
  | 0xBB => .ok (.reqApWriteC data)
  | _ => .error (.badRequestByte req)

/-- An acknowledgement (R108, R109). -/
def decodeAckBits (a : BitVec 3) : Instr :=
  match a.toNat with
  | 0 => .ackReserved000
  | 1 => .ackOk
  | 2 => .ackWait
  | 3 => .ackReserved011
  | 4 => .ackFault
  | 5 => .ackReserved101
  | 6 => .ackReserved110
  | _ => .ackReserved111

/-- The bits of the list from position `i`, `n` of them. -/
def slice (bits : List Bool) (i n : Nat) : List Bool :=
  (bits.drop i).take n

/-- One of the three frames (R102): request, `T(0)`, acknowledgement, and the tail the acknowledgement and the request's
read/write bit decide. -/
def decodeFrame (bits : List Bool) : Except DecodeError Instr :=
  let req := ofLsbBits 8 (slice bits 0 8)
  let isAP := req.getLsbD 1
  let isRead := req.getLsbD 2
  let reg := ofLsbBits 2 [req.getLsbD 3, req.getLsbD 4]
  let ack := ofLsbBits 3 (slice bits 9 3)
  if req ≠ requestByte (regAddr reg) isAP isRead ∨ slice bits 8 1 ≠ [false] then .error .badFrame
  else if ack ≠ 1#3 then
    if bits.length = 46 ∧ slice bits 12 34 = true :: List.replicate 33 false then .ok (.frameNotOk isAP isRead reg ack)
    else .error .badFrame
  else if isRead then
    if bits.length = 47 ∧ slice bits 45 2 = [true, false] then
      .ok (.frameReadOk isAP reg (ofLsbBits 32 (slice bits 12 32)) ((slice bits 44 1) = [true]))
    else .error .badFrame
  else
    let data := ofLsbBits 32 (slice bits 13 32)
    if bits.length = 47 ∧ slice bits 12 1 = [true] ∧ slice bits 45 2 = [Machine.parity32 data, false] then
      .ok (.frameWriteOk isAP reg data)
    else .error .badFrame

/-- The 61 bits of the line reset (R112). -/
def lineResetFormat : List Bool :=
  List.replicate 60 true ++ [false]

/-- The 77 bits of the JTAG-to-SWD select (R113). -/
def jtagToSwdFormat : List Bool :=
  lsbBits (0xE79E#16) 16 ++ lineResetFormat

/-- The 209 bits of the dormant wake (R114 to R116). -/
def dormantWakeFormat : List Bool :=
  List.replicate 8 true ++ msbBits (0x49CF9046#32) ++ msbBits (0xA9B4A161#32) ++ msbBits (0x97F5BBC7#32)
    ++ msbBits (0x45703D98#32) ++ List.replicate 4 false ++ lsbBits (0x1A#8) 8 ++ lineResetFormat

/-- The wire format a bit string is (R101), told by its length and bits. -/
def decodeWire (bits : List Bool) : Except DecodeError Instr :=
  match bits.length with
  | 3 => .ok (decodeAckBits (ofLsbBits 3 bits))
  | 8 => decodeRequestByte (ofLsbBits 8 bits) []
  | 40 => decodeRequestByte (ofLsbBits 8 (slice bits 0 8)) (slice bits 8 32)
  | 46 => decodeFrame bits
  | 47 => decodeFrame bits
  | 61 => if bits = lineResetFormat then .ok .seqLineReset else .error (.noSuchFormat 61)
  | 77 => if bits = jtagToSwdFormat then .ok .seqJtagToSwd else .error (.noSuchFormat 77)
  | 209 => if bits = dormantWakeFormat then .ok .seqDormantWake else .error (.noSuchFormat 209)
  | n => .error (.noSuchFormat n)

/-- The instruction a request stands for. The command port checks `CMD_OP` before anything else (R119, R321). -/
def decode : Request → Except DecodeError Instr
  | .port c => if externalOp c.op then decodeCommand c else .error (.notAccepted c.op)
  | .direct c => decodeCommand c
  | .wire bits => decodeWire bits

/-! ### The encoder -/

/-- A request byte's eight bits, start bit first (R104). -/
def encodeReq (addr : Addr4) (isAP isRead : Bool) : List Bool :=
  lsbBits (requestByte addr isAP isRead) 8

/-- A write request with its payload, least significant bit first (R110). -/
def encodeWrite (addr : Addr4) (isAP : Bool) (data : Word) : Request :=
  .wire (encodeReq addr isAP false ++ lsbBits data 32)

/-- A read request. -/
def encodeRead (addr : Addr4) (isAP : Bool) : Request :=
  .wire (encodeReq addr isAP true)

/-- A tuple of an operation, at the command port if the port accepts it, else as a direct call (R123). -/
def callOf (c : Command) : Request :=
  if externalOp c.op then .port c else .direct c

/-- `CMD_FLAGS` of a Boolean operand in bit 0 and one in bit 1. -/
def flagBits (b0 b1 : Bool) : BitVec 8 :=
  ofLsbBits 8 [b0, b1]

/-- A mode on `CMD_DATA[1:0]` (R123, R241; log 34). -/
def modeOperand : NvmcMode → Word
  | .readOnly => 0#32
  | .write => 1#32
  | .erase => 2#32

/-- The words of an instruction, written from the same tables. -/
def encode : Instr → Request
  | .reqDpRead0 => encodeRead 0x0#4 false
  | .reqDpRead4 => encodeRead 0x4#4 false
  | .reqDpRead8 => encodeRead 0x8#4 false
  | .reqDpReadC => encodeRead 0xC#4 false
  | .reqDpWrite0 d => encodeWrite 0x0#4 false d
  | .reqDpWrite4 d => encodeWrite 0x4#4 false d
  | .reqDpWrite8 d => encodeWrite 0x8#4 false d
  | .reqDpWriteC d => encodeWrite 0xC#4 false d
  | .reqApRead0 => encodeRead 0x0#4 true
  | .reqApRead4 => encodeRead 0x4#4 true
  | .reqApRead8 => encodeRead 0x8#4 true
  | .reqApReadC => encodeRead 0xC#4 true
  | .reqApWrite0 d => encodeWrite 0x0#4 true d
  | .reqApWrite4 d => encodeWrite 0x4#4 true d
  | .reqApWrite8 d => encodeWrite 0x8#4 true d
  | .reqApWriteC d => encodeWrite 0xC#4 true d
  | .ackReserved000 => .wire (lsbBits 0#3 3)
  | .ackOk => .wire (lsbBits 1#3 3)
  | .ackWait => .wire (lsbBits 2#3 3)
  | .ackReserved011 => .wire (lsbBits 3#3 3)
  | .ackFault => .wire (lsbBits 4#3 3)
  | .ackReserved101 => .wire (lsbBits 5#3 3)
  | .ackReserved110 => .wire (lsbBits 6#3 3)
  | .ackReserved111 => .wire (lsbBits 7#3 3)
  | .frameReadOk isAP reg data par =>
      .wire (encodeReq (regAddr reg) isAP true ++ [false] ++ lsbBits 1#3 3 ++ lsbBits data 32 ++ [par] ++ [true, false])
  | .frameWriteOk isAP reg data =>
      .wire (encodeReq (regAddr reg) isAP false ++ [false] ++ lsbBits 1#3 3 ++ [true] ++ lsbBits data 32
        ++ [Machine.parity32 data, false])
  | .frameNotOk isAP isRead reg ack =>
      .wire (encodeReq (regAddr reg) isAP isRead ++ [false] ++ lsbBits ack 3 ++ (true :: List.replicate 33 false))
  | .seqLineReset => .wire lineResetFormat
  | .seqJtagToSwd => .wire jtagToSwdFormat
  | .seqDormantWake => .wire dormantWakeFormat
  | .linkInit a d => callOf { op := 0x00#8, addr := a, data := d }
  | .clockPulse => callOf { op := 0x01#8 }
  | .writeBits v n => callOf { op := 0x02#8, data := v, len := n.setWidth 32 }
  | .readBits n => callOf { op := 0x03#8, len := n.setWidth 32 }
  | .turnaround t => callOf { op := 0x04#8, flags := flagBits t false }
  | .lineReset => callOf { op := 0x05#8 }
  | .jtagToSwdSequence => callOf { op := 0x06#8 }
  | .dormantWakeSequence => callOf { op := 0x07#8 }
  | .parity32 v => callOf { op := 0x08#8, data := v }
  | .connect => callOf { op := 0x10#8 }
  | .disconnect => callOf { op := 0x11#8 }
  | .isConnected => callOf { op := 0x12#8 }
  | .resetTarget => callOf { op := 0x13#8 }
  | .rawTransfer a isAP isRead d =>
      callOf { op := 0x20#8, addr := a.setWidth 32, data := d, flags := flagBits isRead isAP }
  | .dpRead a => callOf { op := 0x21#8, addr := a.setWidth 32 }
  | .dpWrite a d => callOf { op := 0x22#8, addr := a.setWidth 32, data := d }
  | .apRead a => callOf { op := 0x23#8, addr := a.setWidth 32 }
  | .apWrite a d => callOf { op := 0x24#8, addr := a.setWidth 32, data := d }
  | .powerUp => callOf { op := 0x30#8 }
  | .memApInit => callOf { op := 0x31#8 }
  | .readWord a => callOf { op := 0x32#8, addr := a }
  | .writeWord a v => callOf { op := 0x33#8, addr := a, data := v }
  | .waitControllerReady t => callOf { op := 0x40#8, len := t }
  | .setControllerMode m => callOf { op := 0x41#8, data := modeOperand m }
  | .erasePage a => callOf { op := 0x42#8, addr := a }
  | .flashWriteWord a d => callOf { op := 0x43#8, addr := a, data := d }
  | .writeBuffer a n => callOf { op := 0x44#8, addr := a, len := n }
  | .eraseAll => callOf { op := 0x45#8 }
  | .updateFirmware a n v => callOf { op := 0x46#8, addr := a, len := n, flags := flagBits v false }
  | .findControlAccessPort => callOf { op := 0x50#8 }
  | .massErase => callOf { op := 0x51#8 }

/-! ### The opcode table's words -/

/-- The low `n` bits of a table word as a wire format, bit 0 first. -/
def wireOfNat (n w : Nat) : Request :=
  .wire ((List.range n).map w.testBit)

/-- A command tuple of a table word: `CMD_OP` in byte 0, then `CMD_ADDR`, `CMD_DATA`, `CMD_LEN`, `CMD_FLAGS` in R122's order,
each least significant byte first (log 22). -/
def commandOfNat (w : Nat) : Command where
  op := BitVec.ofNat 8 w
  addr := BitVec.ofNat 32 (w >>> 8)
  data := BitVec.ofNat 32 (w >>> 40)
  len := BitVec.ofNat 32 (w >>> 72)
  flags := BitVec.ofNat 8 (w >>> 104)

/-- The request that holds a table row's bits. One byte is a request byte when its park bit is 1, else a command code. A width
below one byte is an acknowledgement; widths rounded up to bytes stand for the frames and the sequences (log 22). -/
def requestOfTableWord (nbits w : Nat) : Request :=
  if nbits < 8 then wireOfNat 3 w
  else if nbits = 8 then if w % 256 < 128 then callOf (commandOfNat w) else wireOfNat 8 w
  else if nbits = 40 then wireOfNat 40 w
  else if nbits = 46 ∨ nbits = 47 then wireOfNat nbits w
  else if nbits = 48 then
    match decode (wireOfNat 47 w) with
    | .ok _ => wireOfNat 47 w
    | .error _ => wireOfNat 46 w
  else if 61 ≤ nbits ∧ nbits ≤ 64 then wireOfNat 61 w
  else if 77 ≤ nbits ∧ nbits ≤ 80 then wireOfNat 77 w
  else if 209 ≤ nbits then wireOfNat 209 w
  else callOf (commandOfNat w)

/-- The instruction the decoder reads from a table row's bits. -/
def decodeTableWord (nbits w : Nat) : Option Instr :=
  (decode (requestOfTableWord nbits w)).toOption

end Sys2Proof
end

