-- ==== Sys2Proof/Machine/Fetch.lean ====
section
/-! DEFINITION. How a call of the host is taken in and how it ends: the command port's handshake (`10_state.md` R26), `BUSY` and
`OP` (R34), and what is unspecified between operations (R33 to R36). -/

namespace Sys2Proof.Machine

/-- The code of the operation a request names; a wire format has none (R123; log 36). -/
def requestOp : Request → Option (BitVec 8)
  | .port c => some c.op
  | .direct c => some c.op
  | .wire _ => none

/-- The one-cycle pulses `RSP_VALID` and `PROG_VALID` fall (R26, R27; log 16). DESIGN CHOICE: the status, data, counts and
label beside them keep their last values (log 16). -/
def State.clearPulses (s : State) : State :=
  s.mapPorts fun p => { p with rspValid := false, progValid := false }

/-- No call is presented: the block is idle and waits for one (R343). -/
def State.idle (s : State) : State := s.clearPulses

/-- Take the call off the stream, its buffer, callback and configuration presented at the ports (R26, R27). -/
def State.present (c : HostCall) (rest : List HostCall) (s : State) : State :=
  s.clearPulses.mapInputs fun x =>
    { x with stream := rest, buffer := c.buffer, callback := c.callback, config := c.config }

/-- A call is accepted: `BUSY` rises, `OP` holds its code (R26, R34). DESIGN CHOICE: a wire row has no command code, and `OP`
keeps while it runs what it held before (log 36). -/
def State.accept (c : HostCall) (rest : List HostCall) (s : State) : State :=
  (s.present c rest).mapSession fun x =>
    { x with busy := true, op := (requestOp c.request).getD x.op }

/-- The command port refuses a `CMD_OP`: `E_UNSUPPORTED`, no hardware touched, no state of the block changed (R119, R305). -/
def State.rejectOp (c : HostCall) (rest : List HostCall) (s : State) : State :=
  respond (.error .eUnsupported, s.present c rest)

/-- A call has ended: `BUSY` falls and `OP` is unspecified (R34). The working registers and `CTRL_AP_INDEX` are unspecified
between operations (R33, R35, R36; log 5), except after a precondition error, which changes no state (R305). -/
def State.retire (s : State) : State :=
  let released := s.mapSession fun x => { x with busy := false }
  if isPreconditionStatus s.ports.rspStatus then freeOp released
  else freeOp (freeCtrlApIndex (freeWorkingRegs released))

end Sys2Proof.Machine
end

