-- ==== Sys2Proof/Machine/Step.lean ====
section
/-! DEFINITION. One step: the block takes the host's next call and runs it to its end (`10_state.md` R26, R41), or waits. -/

namespace Sys2Proof.Machine

/-- One step. Without a call the block is idle (R343). A call presented while `BUSY` = 1 is not accepted (U7). The command port
answers a code it does not accept with `E_UNSUPPORTED` (R119). Otherwise the decoded instruction runs between `accept` and
`retire`. -/
def step (s : State) : Host.Outcome State Fault Refusal :=
  match s.inputs.stream with
  | [] => .next s.idle
  | c :: rest =>
    if s.session.busy then .refused .callWhileBusy
    else
      match decode c.request with
      | .ok i =>
        match exec i (s.accept c rest) with
        | .next t => .next t.retire
        | .fault r => .fault r
        | .refused r => .refused r
      | .error (.notAccepted _) => .next (s.rejectOp c rest)
      | .error e => .fault (.undecodable e)

/-- `s` with the instruction of a table row's bits as the host's next call, presented with the buffer, the callback and the
configuration that stand at the ports, and the block ready to accept it (log 13). -/
def State.withFetchWord (s : State) (nbits w : Nat) : State :=
  let call : HostCall :=
    { request := requestOfTableWord nbits w
      buffer := s.inputs.buffer
      callback := s.inputs.callback
      config := s.inputs.config }
  { s with
    inputs := { s.inputs with stream := call :: s.inputs.stream }
    session := { s.session with busy := false } }

end Sys2Proof.Machine
end

