-- ==== Sys2Proof/Machine/Target.lean ====
section
/-! DEFINITION. The target contract (`20_memory.md` R84 to R93) as the reference target `RT0` of R94: NOT part of the block (R6,
R39) and no part of `step`. `Rt0.observe` follows a wire trace event by event and rejects a sampled bit that is not the one RT0
drives, so a statement takes `Rt0.run` of a trace as a premise about the environment. Log 18. -/

namespace Sys2Proof.Machine

/-- One change of target memory: an erased range, or a byte that now reads so (R66, R94: byte-addressed). -/
inductive MemChange where
  | erased (base size : Nat)
  | byte (addr : Word) (value : Byte)
deriving DecidableEq, Repr

/-- Where RT0 stands in a frame (R85). -/
inductive Rt0Phase where
  /-- Not in step: it waits for a line reset. -/
  | lost
  /-- It waits for a request; the bits of the one under way, first bit first. -/
  | ready (bits : List Bool)
  /-- A request was accepted; the turnaround pulse into release is due. -/
  | turn (req : BitVec 8)
  /-- It drives these bits, the next one first; `req` is the request being answered. -/
  | answer (req : BitVec 8) (ack : BitVec 3) (bits : List Bool)
  /-- It takes the payload of a write and its parity bit. -/
  | payload (req : BitVec 8) (bits : List Bool)
deriving DecidableEq, Repr

/-- The reference target and what a vector may script of it (R94). -/
structure Rt0 where
  par : Params
  phase : Rt0Phase
  /-- High cycles in a row, for the line reset. -/
  ones : Nat
  idcode : Word
  ctrlStat : Word
  select : Word
  /-- The posted result of the last access-port read (R88). -/
  posted : Word
  csw : Word
  tar : Word
  mode : BitVec 2
  /-- Changes of memory, the newest first. -/
  mem : List MemChange
  /-- The start content of every flash word. -/
  fill : Word
  /-- Words that a vector makes read a fixed value whatever is written. -/
  stuck : List (Word × Word)
  eraseStatus : Word
  protection : Word
  /-- What the protection status reads once the control-port erase was triggered. -/
  protectionAfter : Word
  /-- Acknowledgements a vector scripts for the next requests; OK after them. -/
  acks : List (BitVec 3)
deriving DecidableEq, Repr

/-- The target before its first line reset. R94 gives a start value for the posted value, the memory and the control port's
status words; DESIGN CHOICE: the control/status, select, CSW, TAR and mode registers, for which it gives none, start at 0
(log 18). -/
def Rt0.start (par : Params) (idcode fill : Word) : Rt0 where
  par := par
  phase := .lost
  ones := 0
  idcode := idcode
  ctrlStat := 0#32
  select := 0#32
  posted := 0#32
  csw := 0#32
  tar := 0#32
  mode := 0#2
  mem := []
  fill := fill
  stuck := []
  eraseStatus := par.ctrlAp.statusIdle
  protection := 1#32
  protectionAfter := 1#32
  acks := []

/-- Whether a word address lies in the flash range (R71). -/
def Rt0.inFlash (t : Rt0) (a : Word) : Bool := Machine.inFlash t.par a

/-- Whether a word address lies in the 4096 bytes of the UICR (R94). -/
def Rt0.inUicr (t : Rt0) (a : Word) : Bool :=
  decide (t.par.ctrlAp.uicrBase.toNat ≤ a.toNat) && decide (a.toNat < t.par.ctrlAp.uicrBase.toNat + 4096)

/-- The newest change that covers the byte at `a`, else `d`. -/
def Rt0.lookup (erased : Word) (a : Word) (d : Byte) : List MemChange → Byte
  | [] => d
  | .byte b v :: rest => if a = b then v else Rt0.lookup erased a d rest
  | .erased base size :: rest =>
    if base ≤ a.toNat ∧ a.toNat < base + size then byteLane erased (a.setWidth 2).toNat
    else Rt0.lookup erased a d rest

/-- The byte at `a` of a word `w` that stands at address `base`, if it lies there (little-endian, R66). -/
def byteOf (base w a : Word) : Option Byte :=
  if (a - base).toNat < 4 then some (byteLane w (a - base).toNat) else none

/-- A fixed reading that a vector scripts. -/
def Rt0.stuckAt (a : Word) : List (Word × Word) → Option Byte
  | [] => none
  | (b, v) :: rest => (byteOf b v a).orElse fun _ => Rt0.stuckAt a rest

/-- What a byte of memory holds before anything changed it (R94): flash the start content, the UICR erased, all else 0. -/
def Rt0.startByte (t : Rt0) (a : Word) : Byte :=
  let lane := (a.setWidth 2).toNat
  if t.inFlash a then byteLane t.fill lane
  else if t.inUicr a then byteLane t.par.flash.erasedWord lane
  else 0#8

/-- A byte of target memory (R66, R89 to R91, R94): the controller's ready and mode registers stand in the same address
space. DESIGN CHOICE: the trigger registers, which no write reaches, read 0 (log 18). -/
def Rt0.readByte (t : Rt0) (a : Word) : Byte :=
  let f := t.par.flash
  match Rt0.stuckAt a t.stuck with
  | some b => b
  | none =>
    match (byteOf f.nvmcReady 1#32 a).orElse fun _ => byteOf f.nvmcConfig (t.mode.setWidth 32) a with
    | some b => b
    | none => Rt0.lookup f.erasedWord a (t.startByte a) t.mem

/-- What `AP_DRW` reads at `AP_TAR` = `a`: the four bytes from there on, least significant first (R66, R94). DESIGN CHOICE: so
also where `AP_TAR` is misaligned, of which R89 says nothing and which the block never does (R67; log 18). -/
def Rt0.memRead (t : Rt0) (a : Word) : Word :=
  t.readByte (a + 3#32) ++ t.readByte (a + 2#32) ++ t.readByte (a + 1#32) ++ t.readByte a

/-- A byte that a word write carries (R90, R94): programming clears bits and needs Write mode; elsewhere it is stored. -/
def Rt0.writeByte (t : Rt0) (a : Word) (b : Byte) : Rt0 :=
  if t.inFlash a || t.inUicr a then
    if t.mode.setWidth 32 = t.par.flash.modeWrite then { t with mem := .byte a (t.readByte a &&& b) :: t.mem } else t
  else { t with mem := .byte a b :: t.mem }

/-- What a write of `AP_DRW` does at `AP_TAR` = `a` (R90, R91, R94). An erase trigger needs Erase mode. DESIGN CHOICE: a page
trigger whose value is no page start erases the page around it, one whose value lies outside flash does nothing, and the
controller's registers take word writes at their own address only; a trigger register stores nothing, so that it reads 0; a
misaligned `AP_TAR` writes the four bytes from there on; an erase-all trigger with another value than 1 does nothing; `AP_CSW` is
not asked (log 18). -/
def Rt0.memWrite (t : Rt0) (a v : Word) : Rt0 :=
  let f := t.par.flash
  if a = f.nvmcConfig then { t with mode := v.setWidth 2 }
  else if a = f.nvmcErasePage then
    if t.mode.setWidth 32 = f.modeErase ∧ t.inFlash v then
      { t with mem := .erased (alignDown v f.pageSize).toNat f.pageSize :: t.mem }
    else t
  else if a = f.nvmcEraseAll then
    if t.mode.setWidth 32 = f.modeErase ∧ v = 1#32 then
      { t with mem := .erased f.flashBase f.flashSize :: t.mem }
    else t
  else
    (((t.writeByte a (byteLane v 0)).writeByte (a + 1#32) (byteLane v 1)).writeByte (a + 2#32) (byteLane v 2)).writeByte
      (a + 3#32) (byteLane v 3)

/-- An access-port register (R47, R50, R94): the port and bank of the select register, the request's address. -/
def Rt0.apReg (t : Rt0) (addr : Addr4) : ApIndex × Reg8 :=
  ((t.select >>> 24).setWidth 8, ((t.select.setWidth 8) &&& 0xF0#8) ||| addr.setWidth 8)

/-- What an access-port read posts (R88, R89, R92, R94): the memory-access port at index 0, the control port at index 1,
0 from every other port and, DESIGN CHOICE, from every other register of the two (log 18). -/
def Rt0.apValue (t : Rt0) (addr : Addr4) : Word :=
  let p := t.par.power
  let c := t.par.ctrlAp
  let r := t.apReg addr
  if r.1 = 0#8 then
    if r.2 = p.apCsw then t.csw
    else if r.2 = p.apTar then t.tar
    else if r.2 = p.apDrw then t.memRead t.tar
    else 0#32
  else if r.1 = 1#8 then
    if r.2 = c.ctrlapEraseAllStatus then t.eraseStatus
    else if r.2 = c.ctrlapApprotectStatus then t.protection
    else if r.2 = p.apIdr then c.idrValue
    else 0#32
  else 0#32

/-- An access-port write (R89, R92, R94). DESIGN CHOICE: the control port's reset register, of whose effect R94 says nothing,
changes nothing here, a write of another value than `CTRLAP_ERASEALL_START` to the erase trigger does nothing, and the erase
keeps every register of the target (log 18). -/
def Rt0.apWrite (t : Rt0) (addr : Addr4) (v : Word) : Rt0 :=
  let p := t.par.power
  let c := t.par.ctrlAp
  let f := t.par.flash
  let r := t.apReg addr
  if r.1 = 0#8 then
    if r.2 = p.apCsw then { t with csw := v }
    else if r.2 = p.apTar then { t with tar := v }
    else if r.2 = p.apDrw then t.memWrite t.tar v
    else t
  else if r.1 = 1#8 ∧ r.2 = c.ctrlapEraseAll ∧ v = c.eraseAllStart then
    { t with
      mem := .erased c.uicrBase.toNat 4096 :: .erased f.flashBase f.flashSize :: t.mem
      protection := t.protectionAfter }
  else t

/-- A Debug-Port write (R87): the control/status acknowledge bits follow the request bits at once (R94). DESIGN CHOICE: a write of
0x0 or 0xC, of which R94 gives RT0 no effect, changes nothing (log 18). -/
def Rt0.dpWrite (t : Rt0) (addr : Addr4) (v : Word) : Rt0 :=
  let e := t.par.engine
  if addr = e.dpCtrlStat then
    let req := v &&& 0x50000000#32
    { t with ctrlStat := req ||| (req <<< 1) }
  else if addr = e.dpSelect then { t with select := v }
  else t

/-- A Debug-Port read (R87, R94). DESIGN CHOICE: a read of the register at 0x8, of which R94 says only that it stores what is
written, answers 0 (log 18). -/
def Rt0.dpValue (t : Rt0) (addr : Addr4) : Word :=
  let e := t.par.engine
  if addr = e.dpIdcode then t.idcode
  else if addr = e.dpCtrlStat then t.ctrlStat
  else if addr = e.dpRdbuff then t.posted
  else 0#32

/-- Fields of a request byte (R104). -/
def reqAddr (req : BitVec 8) : Addr4 :=
  ofLsbBits 4 [false, false, req.getLsbD 3, req.getLsbD 4]

/-- A frame with the right parity, stop and park bits (R85, R104). -/
def validRequest (req : BitVec 8) : Bool :=
  req == requestByte (reqAddr req) (req.getLsbD 1) (req.getLsbD 2)

/-- The bits RT0 drives in answer to a request, and the read's own effect: an access-port read posts its value and delivers
the value posted before (R85, R88). DESIGN CHOICE: a request that a vector answers otherwise than OK has no effect, and a
reserved acknowledgement, of which R85 does not speak, ends like WAIT and FAULT (log 18). -/
def Rt0.begin (t : Rt0) (req : BitVec 8) : Rt0 :=
  let ack := t.acks.headD t.par.engine.ackOk
  let t1 := { t with acks := t.acks.tail }
  let isAP := req.getLsbD 1
  let data := if isAP then t1.posted else t1.dpValue (reqAddr req)
  if ack ≠ t.par.engine.ackOk then { t1 with phase := .answer req ack (lsbBits ack 3) }
  else if req.getLsbD 2 then
    let t2 := if isAP then { t1 with posted := t1.apValue (reqAddr req) } else t1
    { t2 with phase := .answer req ack (lsbBits ack 3 ++ lsbBits data 32 ++ [parity32 data]) }
  else { t1 with phase := .answer req ack (lsbBits ack 3) }

/-- A driven bit arrives (R85). DESIGN CHOICE: a frame that is broken off (a driven bit where a turnaround or an answer is due)
and an invalid request leave the target lost until a line reset; a line reset brings it back in step and keeps every register
and the memory, since R94 is silent and R342 gives no value (log 18). -/
def Rt0.takeBit (t : Rt0) (b : Bool) : Rt0 :=
  if t.ones ≥ 50 ∧ b = false then { t with ones := 0, phase := .ready [] }
  else
    let t1 := { t with ones := if b then t.ones + 1 else 0 }
    match t.phase with
    | .ready bits =>
      if bits = [] ∧ b = false then t1
      else
        let got := bits ++ [b]
        if got.length < 8 then { t1 with phase := .ready got }
        else
          let req := ofLsbBits 8 got
          if validRequest req then { t1 with phase := .turn req } else { t1 with phase := .lost }
    | .payload req bits =>
      let got := bits ++ [b]
      if got.length < 33 then { t1 with phase := .payload req got }
      else
        let v := ofLsbBits 32 (got.take 32)
        let done := { t1 with phase := .ready [] }
        if parity32 v = b then
          if req.getLsbD 1 then done.apWrite (reqAddr req) v else done.dpWrite (reqAddr req) v
        else done
    | .lost => t1
    | .turn _ => { t1 with phase := .lost }
    | .answer _ _ _ => { t1 with phase := .lost }

/-- A turnaround pulse arrives (R85). DESIGN CHOICE: where a request is awaited it changes nothing, and where an answer or a
payload is under way one that is not due leaves the target lost until a line reset (log 18). -/
def Rt0.takeTurn (t : Rt0) (toWrite : Bool) : Rt0 :=
  match t.phase, toWrite with
  | .turn req, false => { t.begin req with ones := 0 }
  | .answer req ack [], true =>
    if ack = t.par.engine.ackOk ∧ req.getLsbD 2 = false then { t with ones := 0, phase := .payload req [] }
    else { t with ones := 0, phase := .ready [] }
  | .ready bits, _ => { t with ones := 0, phase := .ready bits }
  | _, _ => { t with ones := 0, phase := .lost }

/-- The bit RT0 drives at the next sample, if it drives. -/
def Rt0.drive (t : Rt0) : Option Bool :=
  match t.phase with
  | .answer _ _ (b :: _) => some b
  | _ => none

/-- Follow one event; `none` where the block sampled another bit than RT0 drives. A bit that RT0 does not drive may be
anything (R23, R86). DESIGN CHOICE: a pulse of the reset pin, of which R94 says nothing and after which R342 gives no value,
keeps every register and the memory of RT0 and its place in a frame (log 18). -/
def Rt0.observe (e : Event) (t : Rt0) : Option Rt0 :=
  match e with
  | .w b => some (t.takeBit b)
  | .t toWrite => some (t.takeTurn toWrite)
  | .r b =>
    match t.phase with
    | .answer req ack (d :: rest) => if b = d then some { t with phase := .answer req ack rest } else none
    | _ => some t
  | .nrst _ => some t
  | .delay _ => some t
  | .prog _ _ _ => some t

/-- Follow a trace: `some` when every sampled bit is the one RT0 drove (the premise of a claim about a live target). -/
def Rt0.run : List Event → Rt0 → Option Rt0
  | [], t => some t
  | e :: es, t =>
    match t.observe e with
    | some t1 => Rt0.run es t1
    | none => none

end Sys2Proof.Machine
end

