-- ==== Sys2Proof/Safety.lean ====
section
/-! DEFINITION. The terms claims use: the invariants of `10_state.md` R37, the wire frames of `30_encoding.md` R102 as event lists,
and what an operation may change. -/

namespace Sys2Proof.Machine

/-- R37: `SWCLK` = 0, `DriveState` = `SWDIO_OE`, `LOCK` = 0. -/
def Quiet (s : State) : Prop :=
  s.pins.swclk = false ∧ s.session.driveState.oe = s.pins.swdioOe ∧ s.session.lock = false

/-- R37's stronger form, after any transfer or fixed sequence: the line is driven. -/
def Parked (s : State) : Prop :=
  Quiet s ∧ s.session.driveState = .driven

/-- Every buffer the host lends is in canonical form. -/
def BuffersCanonical (s : State) : Prop :=
  s.inputs.buffer.wf = true ∧ ∀ c ∈ s.inputs.stream, c.buffer.wf = true

/-- The next samples of the line are exactly `bits`, driven by the target, then `rest`. -/
def LineShows (bits : List Bool) (rest : List (Option Bool)) (s : State) : Prop :=
  s.inputs.line = bits.map some ++ rest

/-- Bits the block drives, one pulse each. -/
def wEvents (bits : List Bool) : List Event := bits.map Event.w

/-- Bits the block samples, one pulse each. -/
def rEvents (bits : List Bool) : List Event := bits.map Event.r

/-- The head every frame has (R102): eight request bits, `T(0)`, three acknowledgement bits; 12 pulses. -/
def headEvents (addr : Addr4) (isAP isRead : Bool) (ack : BitVec 3) : List Event :=
  wEvents (lsbBits (requestByte addr isAP isRead) 8) ++ [.t false] ++ rEvents (lsbBits ack 3)

/-- R102, case ACK = OK, read: 47 pulses. -/
def okReadEvents (cfg : Params) (addr : Addr4) (isAP : Bool) (data : Word) (par : Bool) : List Event :=
  headEvents addr isAP true cfg.engine.ackOk ++ rEvents (lsbBits data 32) ++ [.r par] ++ [.t true] ++ [.w cfg.wire.idleBit]

/-- R102, case ACK = OK, write: 47 pulses. -/
def okWriteEvents (cfg : Params) (addr : Addr4) (isAP : Bool) (data : Word) : List Event :=
  headEvents addr isAP false cfg.engine.ackOk ++ [.t true] ++ wEvents (lsbBits data 32) ++ [.w (parity32 data)]
    ++ [.w cfg.wire.idleBit]

/-- R102, case ACK not OK: 46 pulses. -/
def notOkEvents (cfg : Params) (addr : Addr4) (isAP isRead : Bool) (ack : BitVec 3) : List Event :=
  headEvents addr isAP isRead ack ++ [.t true] ++ wEvents (lsbBits cfg.wire.dummyData 32) ++ [.w cfg.wire.idleBit]

/-- What a live target drives in a read frame it acknowledges OK. -/
def okReadAnswer (cfg : Params) (data : Word) (par : Bool) : List Bool :=
  lsbBits cfg.engine.ackOk 3 ++ lsbBits data 32 ++ [par]

/-- The line reset's events (R112). -/
def lineResetEvents (cfg : Params) : List Event :=
  wEvents (List.replicate cfg.wire.lineResetHighCycles true ++ List.replicate cfg.wire.lineResetLowCycles false)

/-- Whether an event is a clock pulse (R38). -/
def Event.isPulse : Event → Bool
  | .w _ => true
  | .r _ => true
  | .t _ => true
  | .nrst _ => false
  | .delay _ => false
  | .prog _ _ _ => false

/-- The number of clock pulses of a trace (R38). -/
def pulses (es : List Event) : Nat := (es.filter Event.isPulse).length

/-- The three acknowledgement codes are different, and none is lost to another (R108). -/
def AckCodesDistinct (cfg : Params) : Prop :=
  cfg.engine.ackOk ≠ cfg.engine.ackWait ∧ cfg.engine.ackOk ≠ cfg.engine.ackFault
    ∧ cfg.engine.ackWait ≠ cfg.engine.ackFault

/-- What no operation but `linkInit` changes: the configuration and the host's side of the ports; and the trace only grows,
from `s` to `t` (R28, R38, R64). -/
def Continues (s t : State) : Prop :=
  t.cfg = s.cfg ∧ t.inputs.stream = s.inputs.stream ∧ t.inputs.buffer = s.inputs.buffer
    ∧ t.inputs.callback = s.inputs.callback ∧ t.inputs.config = s.inputs.config ∧ ∃ es, t.trace = s.trace ++ es

/-- What a target that follows RT0 from `t0` has answered between `s` and `t` (R84, R94): the premise of a claim about it. -/
def AnsweredByRt0 (t0 : Rt0) (s t : State) : Prop :=
  ∃ es t1, t.trace = s.trace ++ es ∧ Rt0.run es t0 = some t1

end Sys2Proof.Machine
end

