-- ==== Sys2Proof/Machine/Script.lean ====
section
/-! DEFINITION. Wire scripts: what the block does on the wire as a list of transfers, sequences, delays and reports, in the way
`95_test_vectors.md` lists its programs. A claim takes the target's answers of a script as a premise on the line and says that
the trace is the script's. Nothing here is part of `step`. -/

namespace Sys2Proof.Machine

/-! ### Scripts -/

/-- One thing that shows on the trace. -/
inductive Act where
  /-- A read frame the target acknowledges OK and answers with `data` and its parity (R102). -/
  | read (addr : Addr4) (isAP : Bool) (data : Word)
  /-- The same frame with the parity bit flipped (R193). -/
  | garbled (addr : Addr4) (isAP : Bool) (data : Word)
  /-- A write frame the target acknowledges OK (R102). -/
  | write (addr : Addr4) (isAP : Bool) (data : Word)
  /-- A frame the target acknowledges with another code (R102). -/
  | turnedAway (addr : Addr4) (isAP isRead : Bool) (ack : BitVec 3)
  /-- Bits sent outside a frame (R101). -/
  | send (bits : List Bool)
  | pause (p : DelayName)
  | report (done total : Word) (label : ProgLabel)
  | pin (asserted : Bool)
deriving DecidableEq, Repr

/-- The events of one act. -/
def Act.events (cfg : Params) : Act → List Event
  | .read a p d => okReadEvents cfg a p d (parity32 d)
  | .garbled a p d => okReadEvents cfg a p d (!parity32 d)
  | .write a p d => okWriteEvents cfg a p d
  | .turnedAway a p r k => notOkEvents cfg a p r k
  | .send bits => wEvents bits
  | .pause p => [.delay p]
  | .report d t l => [.prog d t l]
  | .pin b => [.nrst b]

/-- The bits the target drives during one act. -/
def Act.answer (cfg : Params) : Act → List Bool
  | .read _ _ d => okReadAnswer cfg d (parity32 d)
  | .garbled _ _ d => okReadAnswer cfg d (!parity32 d)
  | .write _ _ _ => lsbBits cfg.engine.ackOk 3
  | .turnedAway _ _ _ k => lsbBits k 3
  | .send _ => []
  | .pause _ => []
  | .report _ _ _ => []
  | .pin _ => []

/-- The events of a script. -/
def actEvents (cfg : Params) (acts : List Act) : List Event := acts.flatMap (Act.events cfg)

/-- The bits the target drives during a script. -/
def actAnswers (cfg : Params) (acts : List Act) : List Bool := acts.flatMap (Act.answer cfg)

/-- The target answers the script `acts` from `s` on, and then `rest` follows on the line. -/
def Answers (acts : List Act) (rest : List (Option Bool)) (s : State) : Prop :=
  LineShows (actAnswers s.cfg acts) rest s

/-- From `s` to `t` the block put exactly the script on the wire, took exactly the target's answers off the line, and left the
line parked; the configuration, the host's side of the ports and the reset pin are as before (R28, R37, R150). -/
def Played (acts : List Act) (rest : List (Option Bool)) (s t : State) : Prop :=
  t.trace = s.trace ++ actEvents s.cfg acts ∧ t.inputs = { s.inputs with line := rest } ∧ Parked t
    ∧ t.cfg = s.cfg ∧ t.pins.nreset = s.pins.nreset

/-- The response of an operation that completed without a result value (R123, R124). That an internal operation and a wire row
answer on the response port too is log 27. -/
def Responded (st : BitVec 8) (t : State) : Prop :=
  t.ports.rspValid = true ∧ t.ports.rspStatus = st

/-- The response of an operation that completed with the value `v` (R123, R124; log 27). -/
def RespondedWith (v : Word) (t : State) : Prop :=
  Responded statusOk t ∧ t.ports.rspData = v

/-- The session is as it was (R29 to R34), the line driven. -/
def SessionKept (s t : State) : Prop :=
  t.session = { s.session with driveState := .driven, lock := false }

/-- The buffer port and the progress port are as they were (R27). -/
def HostPortsKept (s t : State) : Prop :=
  t.ports.bufIndex = s.ports.bufIndex ∧ t.ports.bufByte = s.ports.bufByte ∧ t.ports.progValid = s.ports.progValid
    ∧ t.ports.progDone = s.ports.progDone ∧ t.ports.progTotal = s.ports.progTotal
    ∧ t.ports.progLabel = s.ports.progLabel

/-- `t` is `s` but for the response port and the count of free values: nothing was touched (R305). -/
def OnlyResponded (s t : State) : Prop :=
  t = { s with
        ports :=
          { s.ports with
            rspValid := t.ports.rspValid
            rspStatus := t.ports.rspStatus
            rspData := t.ports.rspData }
        draws := t.draws }

/-- The turnaround pulse `writeBits` puts in front when it finds the line released (R141, R190). -/
def entryTurn (s : State) : List Event :=
  if s.session.driveState = .released then [.t true] else []

/-- The turnaround pulse `readBits` puts in front when it finds the line driven (R142). -/
def exitTurn (s : State) : List Event :=
  if s.session.driveState = .driven then [.t false] else []

/-! ### Instructions that are transfers -/

/-- The transfer a request row, or `rawTransfer`, stands for: address, `isAP`, `isRead`, payload (R107, R190; that a row is a
transfer is log 1). -/
def transferOf : Instr → Option (Addr4 × Bool × Bool × Word)
  | .reqDpRead0 => some (0x0#4, false, true, 0#32)
  | .reqDpRead4 => some (0x4#4, false, true, 0#32)
  | .reqDpRead8 => some (0x8#4, false, true, 0#32)
  | .reqDpReadC => some (0xC#4, false, true, 0#32)
  | .reqDpWrite0 d => some (0x0#4, false, false, d)
  | .reqDpWrite4 d => some (0x4#4, false, false, d)
  | .reqDpWrite8 d => some (0x8#4, false, false, d)
  | .reqDpWriteC d => some (0xC#4, false, false, d)
  | .reqApRead0 => some (0x0#4, true, true, 0#32)
  | .reqApRead4 => some (0x4#4, true, true, 0#32)
  | .reqApRead8 => some (0x8#4, true, true, 0#32)
  | .reqApReadC => some (0xC#4, true, true, 0#32)
  | .reqApWrite0 d => some (0x0#4, true, false, d)
  | .reqApWrite4 d => some (0x4#4, true, false, d)
  | .reqApWrite8 d => some (0x8#4, true, false, d)
  | .reqApWriteC d => some (0xC#4, true, false, d)
  | .rawTransfer a p r d => some (a, p, r, d)
  | _ => none

/-- The rows that are whole frames with the target's bits given (R102). -/
def isFrameRow : Instr → Bool
  | .frameReadOk _ _ _ _ => true
  | .frameWriteOk _ _ _ => true
  | .frameNotOk _ _ _ _ => true
  | _ => false

/-- The code an acknowledgement row stands for (R108, R109). -/
def ackOf : Instr → Option (BitVec 3)
  | .ackReserved000 => some 0b000#3
  | .ackOk => some 0b001#3
  | .ackWait => some 0b010#3
  | .ackReserved011 => some 0b011#3
  | .ackFault => some 0b100#3
  | .ackReserved101 => some 0b101#3
  | .ackReserved110 => some 0b110#3
  | .ackReserved111 => some 0b111#3
  | _ => none

/-- The fields a transfer does not change, and what it leaves on the pins: the line parked at the idle bit (R111, R150, R190). -/
def TransferFrame (rest : List (Option Bool)) (s t : State) : Prop :=
  t.cfg = s.cfg ∧ t.inputs = { s.inputs with line := rest } ∧ SessionKept s t ∧ t.seqRegs = s.seqRegs
    ∧ HostPortsKept s t
    ∧ t.pins = { swclk := false, swdioOut := s.cfg.wire.idleBit, swdioOe := true, nreset := s.pins.nreset }
    ∧ t.linkRegs.attempt = s.linkRegs.attempt ∧ t.linkRegs.last = s.linkRegs.last

/-! ### Which instructions may change what -/

/-- The instructions that may leave the line released (R142, R143, R192). -/
def mayRelease : Instr → Bool
  | .readBits _ => true
  | .turnaround _ => true
  | i => (ackOf i).isSome

/-- The instruction that loads a configuration (R28). -/
def loadsConfig : Instr → Bool
  | .linkInit _ _ => true
  | _ => false

/-- The instructions that may write the reset pin (R24, R340). -/
def writesNreset : Instr → Bool
  | .linkInit _ _ => true
  | .resetTarget => true
  | _ => false

/-- The instructions that may write `ConnectionState` and `IDCODE_REG` (R30, R32, R175). -/
def movesSession : Instr → Bool
  | .linkInit _ _ => true
  | .connect => true
  | .disconnect => true
  | .isConnected => true
  | .resetTarget => true
  | .massErase => true
  | _ => false

/-- The instructions that may write `CTRL_AP_INDEX` (R33). -/
def writesCtrlApIndex : Instr → Bool
  | .linkInit _ _ => true
  | .findControlAccessPort => true
  | .massErase => true
  | _ => false

/-- The instructions that may write the sequencers' working registers (R36). -/
def usesSeqRegs : Instr → Bool
  | .linkInit _ _ => true
  | .powerUp => true
  | .connect => true
  | .resetTarget => true
  | .waitControllerReady _ => true
  | .erasePage _ => true
  | .flashWriteWord _ _ => true
  | .writeBuffer _ _ => true
  | .eraseAll => true
  | .updateFirmware _ _ _ => true
  | .findControlAccessPort => true
  | .massErase => true
  | _ => false

/-- The instructions that read the host's buffer (R123). -/
def readsBuffer : Instr → Bool
  | .writeBuffer _ _ => true
  | .updateFirmware _ _ _ => true
  | _ => false

/-- The instructions that make progress upcalls (R123). -/
def reportsProgress : Instr → Bool
  | .writeBuffer _ _ => true
  | .updateFirmware _ _ _ => true
  | .massErase => true
  | _ => false

/-! ### Initialisation (R340) -/

/-- The constraints of `valid(config)`, in R340's order. -/
def ConfigConstraints (p : Params) : Prop :=
  p.link.pinSwclk ≠ p.link.pinSwdio
    ∧ (p.link.hasNreset = true → p.link.pinNreset ≠ p.link.pinSwclk ∧ p.link.pinNreset ≠ p.link.pinSwdio)
    ∧ 50 ≤ p.wire.lineResetHighCycles ∧ 1 ≤ p.wire.lineResetLowCycles
    ∧ 1 ≤ p.engine.maxAttempts ∧ 1 ≤ p.power.powerupPollMax ∧ 1 ≤ p.flash.readyConsecutive
    ∧ 1 ≤ p.flash.writePollIntervalWords ∧ 1 ≤ p.flash.progressIntervalBytes
    ∧ 1 ≤ p.flash.readyPollIntervalMs ∧ 1 ≤ p.ctrlAp.massErasePollIntervalMs
    ∧ (∃ k, p.flash.pageSize = 2 ^ k) ∧ 16 ≤ p.flash.pageSize
    ∧ p.flash.pageSize ∣ p.flash.flashBase ∧ p.flash.pageSize ∣ p.flash.flashSize
    ∧ p.flash.flashBase + p.flash.flashSize ≤ 2 ^ 32
    ∧ (∀ o ∈ p.flash.eraseVerifyOffsets, wordAligned o = true ∧ o.toNat < p.flash.pageSize)
    ∧ 0#32 ∈ p.flash.eraseVerifyOffsets ∧ (∃ o ∈ p.flash.eraseVerifyOffsets, o.toNat = p.flash.pageSize - 4)
    ∧ 3 ≤ p.flash.eraseVerifyOffsets.length
    ∧ (∀ a ∈ p.ctrlAp.verifyAddrs, wordAligned a = true) ∧ 2 ≤ p.ctrlAp.verifyAddrs.length
    ∧ 1 ≤ p.ctrlAp.scanCount ∧ p.ctrlAp.scanCount ≤ 256

/-- What every step keeps: R37's invariants with `BUSY` = 0, the lent buffers canonical (log 11), a valid configuration (R340),
and R30's: a Connected session holds an identification code that is not dead. -/
def Consistent (s : State) : Prop :=
  Quiet s ∧ BuffersCanonical s ∧ s.session.busy = false ∧ validConfig s.cfg = true
    ∧ (s.session.connectionState = .connected → deadIdcode s.session.idcodeReg = false)

/-! ### Fixed sequences -/

/-- The line reset's bits (R112). -/
def resetBits (cfg : Params) : List Bool :=
  List.replicate cfg.wire.lineResetHighCycles true ++ List.replicate cfg.wire.lineResetLowCycles false

/-- The JTAG-to-SWD select's bits (R113). -/
def selectBits (cfg : Params) : List Bool :=
  lsbBits cfg.wire.jtagToSwdPattern 16 ++ resetBits cfg

/-- The dormant wake's bits (R114; above 8 high cycles log 15). -/
def wakeBits (cfg : Params) : List Bool :=
  List.replicate cfg.wire.wakeHighCycles true ++ msbBits cfg.wire.alertWord0 ++ msbBits cfg.wire.alertWord1
    ++ msbBits cfg.wire.alertWord2 ++ msbBits cfg.wire.alertWord3 ++ List.replicate cfg.wire.wakeLowCycles false
    ++ lsbBits cfg.wire.activationCode 8 ++ resetBits cfg

/-- The bits an operation or a sequence row sends (R112 to R114). -/
def sequenceOf (cfg : Params) : Instr → Option (List Bool)
  | .lineReset => some (resetBits cfg)
  | .seqLineReset => some (resetBits cfg)
  | .jtagToSwdSequence => some (selectBits cfg)
  | .seqJtagToSwd => some (selectBits cfg)
  | .dormantWakeSequence => some (wakeBits cfg)
  | .seqDormantWake => some (wakeBits cfg)
  | _ => none

/-! ### The retry loop (R197) -/

/-- A failed attempt, with the acknowledgement the recovery write got. -/
inductive Attempt where
  | wait
  | fault (clr : BitVec 3)
  | parity (data : Word) (clr : BitVec 3)
  | reserved (ack : BitVec 3)
deriving DecidableEq, Repr

/-- The recovery write (R202), whatever its acknowledgement. -/
def clearAct (cfg : Params) (clr : BitVec 3) : Act :=
  if clr = cfg.engine.ackOk then .write cfg.engine.dpAbort false cfg.engine.abortClearPattern
  else .turnedAway cfg.engine.dpAbort false false clr

/-- What a failed attempt and its recovery put on the trace (R197). -/
def Attempt.acts (cfg : Params) (addr : Addr4) (isAP isRead : Bool) : Attempt → List Act
  | .wait => [.turnedAway addr isAP isRead cfg.engine.ackWait, .pause .waitRetry]
  | .fault clr => [.turnedAway addr isAP isRead cfg.engine.ackFault, clearAct cfg clr]
  | .parity d clr => [.garbled addr isAP d, clearAct cfg clr]
  | .reserved k => [.turnedAway addr isAP isRead k]

/-- A parity failure needs a read; a reserved acknowledgement is none of the three codes (R108, R109, R303). -/
def Attempt.possible (cfg : Params) (isRead : Bool) : Attempt → Prop
  | .wait => True
  | .fault _ => True
  | .parity _ _ => isRead = true
  | .reserved k => k ≠ cfg.engine.ackOk ∧ k ≠ cfg.engine.ackWait ∧ k ≠ cfg.engine.ackFault

/-- The code a loop reports whose last attempt this was (R197e, R309). -/
def Attempt.code : Attempt → ErrCode
  | .wait => .eWaitExhausted
  | .fault _ => .eFault
  | .parity _ _ => .eParity
  | .reserved _ => .eProtocol

/-- The acts of a list of failed attempts. -/
def attemptActs (cfg : Params) (addr : Addr4) (isAP isRead : Bool) (fs : List Attempt) : List Act :=
  fs.flatMap (Attempt.acts cfg addr isAP isRead)

/-- An access whose whole budget of attempts failed (R197). -/
def Exhausted (cfg : Params) (isRead : Bool) (fs : List Attempt) : Prop :=
  AckCodesDistinct cfg ∧ fs.length = cfg.engine.maxAttempts ∧ ∀ f ∈ fs, f.possible cfg isRead

/-- An OK frame of a request. -/
def okAct (addr : Addr4) (isAP isRead : Bool) (payload data : Word) : Act :=
  if isRead then .read addr isAP data else .write addr isAP payload

/-! ### Registers and memory words of the target -/

/-- An access-port read: the posted read with stale data, then the read buffer (R201). -/
def apReadActs (cfg : Params) (addr : Addr4) (stale v : Word) : List Act :=
  [.read addr true stale, .read cfg.engine.dpRdbuff false v]

/-- A select (R222). -/
def selectAct (cfg : Params) (i : ApIndex) (reg8 : Reg8) : Act :=
  .write cfg.engine.dpSelect false (selectWord i reg8)

/-- `memReadWord` (R226). -/
def memReadActs (cfg : Params) (addr stale v : Word) : List Act :=
  .write (regLow cfg.power.apTar) true addr :: apReadActs cfg (regLow cfg.power.apDrw) stale v

/-- `memWriteWord` (R227). -/
def memWriteActs (cfg : Params) (addr v : Word) : List Act :=
  [.write (regLow cfg.power.apTar) true addr, .write (regLow cfg.power.apDrw) true v]

/-- `memApInit` (R221). -/
def memApActs (cfg : Params) : List Act :=
  [selectAct cfg cfg.power.memApIndex cfg.power.apCsw, .write (regLow cfg.power.apCsw) true cfg.power.cswWordValue]

/-- How one poll by `dpRead` went: a value, or every attempt failed (D23). -/
inductive DpPoll where
  | saw (v : Word)
  | lost (fs : List Attempt)
deriving DecidableEq, Repr

/-- What a poll by `dpRead` puts on the trace. -/
def DpPoll.acts (cfg : Params) (addr : Addr4) : DpPoll → List Act
  | .saw v => [.read addr false v]
  | .lost fs => attemptActs cfg addr false true fs

/-- The value the poll gave. -/
def DpPoll.value : DpPoll → Option Word
  | .saw v => some v
  | .lost _ => none

/-- A failed poll used up its budget. -/
def DpPoll.possible (cfg : Params) : DpPoll → Prop
  | .saw _ => True
  | .lost fs => Exhausted cfg true fs

/-- How one poll by `apRead` went: stale data and a value, or the posted read or the read-buffer read failed in every attempt
(R201, D23). -/
inductive ApPoll where
  | saw (stale v : Word)
  | lostPost (fs : List Attempt)
  | lostBuffer (stale : Word) (fs : List Attempt)
deriving DecidableEq, Repr

/-- What a poll by `apRead` puts on the trace. -/
def ApPoll.acts (cfg : Params) (addr : Addr4) : ApPoll → List Act
  | .saw stale v => apReadActs cfg addr stale v
  | .lostPost fs => attemptActs cfg addr true true fs
  | .lostBuffer stale fs => .read addr true stale :: attemptActs cfg cfg.engine.dpRdbuff false true fs

/-- The value the poll gave. -/
def ApPoll.value : ApPoll → Option Word
  | .saw _ v => some v
  | .lostPost _ => none
  | .lostBuffer _ _ => none

/-- A failed poll used up its budget. -/
def ApPoll.possible (cfg : Params) : ApPoll → Prop
  | .saw _ _ => True
  | .lostPost fs => Exhausted cfg true fs
  | .lostBuffer _ fs => Exhausted cfg true fs

/-- How one poll went that writes a register (an address, a select word) and then reads an access-port register: the write
failed in every attempt, or the read went its way (R226, R280). -/
inductive Poll where
  | lostWrite (fs : List Attempt)
  | reads (p : ApPoll)
deriving DecidableEq, Repr

/-- What such a poll puts on the trace: the write of `w` to `wAddr`, then the read of `addr`. -/
def Poll.acts (cfg : Params) (wAddr : Addr4) (wAP : Bool) (w : Word) (addr : Addr4) : Poll → List Act
  | .lostWrite fs => attemptActs cfg wAddr wAP false fs
  | .reads p => .write wAddr wAP w :: p.acts cfg addr

/-- The value the poll gave. -/
def Poll.value : Poll → Option Word
  | .lostWrite _ => none
  | .reads p => p.value

/-- A failed poll used up its budget. -/
def Poll.possible (cfg : Params) : Poll → Prop
  | .lostWrite fs => Exhausted cfg false fs
  | .reads p => p.possible cfg

/-- Polls of the control/status register, a delay between two (R220). -/
def powerPolls (cfg : Params) : List DpPoll → List Act
  | [] => []
  | [p] => p.acts cfg cfg.engine.dpCtrlStat
  | p :: rest => p.acts cfg cfg.engine.dpCtrlStat ++ .pause .powerupPoll :: powerPolls cfg rest

/-- The poll's read shows both acknowledge bits (R220); a failed poll does not (D18, D23). -/
def powered (cfg : Params) (p : DpPoll) : Prop :=
  ∃ v, p.value = some v ∧ v &&& cfg.power.pwrupAckMask = cfg.power.pwrupAckMask

/-- `powerUp` whose polls went as `ps` (R220). -/
def powerActs (cfg : Params) (ps : List DpPoll) : List Act :=
  [.write cfg.engine.dpAbort false cfg.engine.abortClearPattern, .write cfg.engine.dpCtrlStat false cfg.power.pwrupReq]
    ++ powerPolls cfg ps

/-- The polls end with the first one that sees both bits, inside the budget (R220). -/
def PowersUp (cfg : Params) (ps : List DpPoll) : Prop :=
  (∃ before p, ps = before ++ [p] ∧ powered cfg p ∧ ∀ q ∈ before, ¬ powered cfg q)
    ∧ ps.length ≤ cfg.power.powerupPollMax ∧ ∀ p ∈ ps, p.possible cfg

/-- The polls are the whole budget, and none sees both bits (R220). -/
def NeverPowers (cfg : Params) (ps : List DpPoll) : Prop :=
  ps.length = cfg.power.powerupPollMax ∧ (∀ p ∈ ps, ¬ powered cfg p) ∧ ∀ p ∈ ps, p.possible cfg

/-- `connect`'s part behind the identification (R170). -/
def attachActs (cfg : Params) (ps : List DpPoll) : List Act := powerActs cfg ps ++ memApActs cfg

/-- An identification read that fails: a dead value, every attempt acknowledged with one reserved code, or every attempt failed
in whatever way (R171). -/
def IdFails (cfg : Params) (acts : List Act) : Prop :=
  (∃ d, deadIdcode d = true ∧ acts = [.read cfg.engine.dpIdcode false d])
    ∨ (∃ k, Attempt.possible cfg true (.reserved k) ∧ 1 ≤ cfg.engine.maxAttempts
        ∧ acts = List.replicate cfg.engine.maxAttempts (.turnedAway cfg.engine.dpIdcode false true k))
    ∨ ∃ fs, Exhausted cfg true fs ∧ acts = attemptActs cfg cfg.engine.dpIdcode false true fs

/-- The two ways to a valid identification code `id`: the dormant wake, or the fallback behind a failed read (R170). -/
def Identifies (cfg : Params) (id : Word) (acts : List Act) : Prop :=
  deadIdcode id = false
    ∧ (acts = [.send (wakeBits cfg), .read cfg.engine.dpIdcode false id]
      ∨ ∃ failed, IdFails cfg failed
          ∧ acts = .send (wakeBits cfg) :: failed
              ++ [.send (resetBits cfg), .send (selectBits cfg), .read cfg.engine.dpIdcode false id])

/-! ### The flash controller -/

/-- The controller's registers are word addresses, as every register is (R48, R67). -/
def NvmcAligned (cfg : Params) : Prop :=
  wordAligned cfg.flash.nvmcReady = true ∧ wordAligned cfg.flash.nvmcConfig = true
    ∧ wordAligned cfg.flash.nvmcErasePage = true ∧ wordAligned cfg.flash.nvmcEraseAll = true

/-- Whether a poll of the ready register reads ready; a failed poll does not (R240, D23). -/
def readsReady (cfg : Params) (p : Poll) : Bool :=
  match p.value with
  | some v => v &&& cfg.flash.nvmcReadyMask != 0#32
  | none => false

/-- One poll of the ready register: the memory word read of R226. -/
def readyPollActs (cfg : Params) (p : Poll) : List Act :=
  p.acts cfg (regLow cfg.power.apTar) true cfg.flash.nvmcReady (regLow cfg.power.apDrw)

/-- Polls of the ready register, a delay between two (R240). -/
def readyPolls (cfg : Params) : List Poll → List Act
  | [] => []
  | [p] => readyPollActs cfg p
  | p :: rest => readyPollActs cfg p ++ .pause .readyPoll :: readyPolls cfg rest

/-- How many polls at the end of the list read ready in a row (R240). -/
def readyRunOf (cfg : Params) (ps : List Poll) : Nat :=
  (ps.reverse.takeWhile (readsReady cfg)).length

/-- The wait ends with the last poll of the list: there, and not before, `READY_CONSECUTIVE` polls in a row read ready, and the
list fits the budget (R239, R240). -/
def Settles (cfg : Params) (timeoutMs : Nat) (ps : List Poll) : Prop :=
  (ps.length ≤ polls cfg timeoutMs ∧ readyRunOf cfg ps = cfg.flash.readyConsecutive
    ∧ ∀ j < ps.length, readyRunOf cfg (ps.take j) ≠ cfg.flash.readyConsecutive) ∧ ∀ p ∈ ps, p.possible cfg

/-- The wait runs out: the list is the whole budget, and nowhere in it `READY_CONSECUTIVE` polls in a row read ready (R240). -/
def NeverSettles (cfg : Params) (timeoutMs : Nat) (ps : List Poll) : Prop :=
  (ps.length = polls cfg timeoutMs ∧ ∀ j ≤ ps.length, readyRunOf cfg (ps.take j) ≠ cfg.flash.readyConsecutive)
    ∧ ∀ p ∈ ps, p.possible cfg

/-- A mode switch with its read-back (R241). -/
def modeActs (cfg : Params) (m : NvmcMode) (back : Word × Word) : List Act :=
  memWriteActs cfg cfg.flash.nvmcConfig (modeCode cfg m) ++ memReadActs cfg cfg.flash.nvmcConfig back.1 back.2

/-- The read-back shows the mode (R241). -/
def ShowsMode (cfg : Params) (m : NvmcMode) (back : Word × Word) : Prop :=
  back.2 &&& cfg.flash.nvmcModeMask = modeCode cfg m

/-- What the target answers during one page erase: the first wait, the mode switch, the wait behind the trigger, the samples,
the restoring switch; each read with its stale data. -/
structure EraseTalk where
  before : List Poll
  into : Word × Word
  after : List Poll
  samples : List (Word × Word)
  back : Word × Word
deriving DecidableEq, Repr

/-- The sample reads of a page erase (R243). -/
def sampleActs (cfg : Params) (page : Word) : List Word → List (Word × Word) → List Act
  | off :: offs, p :: ps => memReadActs cfg (page + off) p.1 p.2 ++ sampleActs cfg page offs ps
  | _, _ => []

/-- One page erase (R243). -/
def eraseActs (cfg : Params) (page : Word) (k : EraseTalk) : List Act :=
  readyPolls cfg k.before ++ modeActs cfg .erase k.into ++ memWriteActs cfg cfg.flash.nvmcErasePage page
    ++ [.pause .eraseSettle] ++ readyPolls cfg k.after ++ sampleActs cfg page cfg.flash.eraseVerifyOffsets k.samples
    ++ modeActs cfg .readOnly k.back

/-- The page erase's body is answered as a controller answers that did erase the page; `back` is left open. -/
def EraseTalk.erases (cfg : Params) (k : EraseTalk) : Prop :=
  Settles cfg cfg.flash.readyTimeoutMs k.before ∧ ShowsMode cfg .erase k.into
    ∧ Settles cfg cfg.flash.erasePageTimeoutMs k.after ∧ k.samples.length = cfg.flash.eraseVerifyOffsets.length
    ∧ ∀ p ∈ k.samples, p.2 = cfg.flash.erasedWord

/-- The page erase is answered well to its end, the mode restored. -/
def EraseTalk.good (cfg : Params) (k : EraseTalk) : Prop :=
  k.erases cfg ∧ ShowsMode cfg .readOnly k.back

/-! ### A buffered span, said without the writer's loop (R245) -/

/-- How many target words a span of `length` bytes from `address` touches. -/
def spanWords (address length : Word) : Nat :=
  ((address.setWidth 2).toNat + length.toNat + 3) / 4

/-- The address of the span's j-th word. -/
def spanAddr (address : Word) (j : Nat) : Word := alignDown address 4 + BitVec.ofNat 32 (4 * j)

/-- Lane `k` of the span's j-th word: the buffer byte if the byte lies inside the span; else, in a word that holds bytes before
the span, what memory held there (`lead`); else the erased byte (R245). -/
def spanLane (address length lead : Word) (m : Memory) (j k : Nat) : Byte :=
  let lane := (address.setWidth 2).toNat
  if lane ≤ 4 * j + k ∧ 4 * j + k < lane + length.toNat then m.read (BitVec.ofNat 32 (4 * j + k - lane))
  else if j = 0 ∧ lane ≠ 0 then byteLane lead k
  else 0xFF#8

/-- The span's j-th word, little-endian (R66, R245). -/
def spanWord (address length lead : Word) (m : Memory) (j : Nat) : Word :=
  let b := spanLane address length lead m j
  b 3 ++ b 2 ++ b 1 ++ b 0

/-- How many buffer bytes are written once the words 0 to j are. -/
def spanDone (address length : Word) (j : Nat) : Nat :=
  min (4 * (j + 1) - (address.setWidth 2).toNat) length.toNat

/-- The writes of the span from its j-th word on, `n` of them, with the periodic ready waits (each answered by `ps`) and
reports; `since` words since the last wait, `reported` bytes at the last report. The result also says both at the end (R245). -/
def spanActs (cfg : Params) (address length lead : Word) (m : Memory) (ps : List Poll) :
    Nat → Nat → Nat → Nat → List Act × Nat × Nat
  | 0, _, since, reported => ([], since, reported)
  | n + 1, j, since, reported =>
    let wait : Bool := since + 1 == cfg.flash.writePollIntervalWords
    let done := spanDone address length j
    let due : Bool := decide (cfg.flash.progressIntervalBytes ≤ done - reported)
    let rest :=
      spanActs cfg address length lead m ps n (j + 1) (if wait then 0 else since + 1) (if due then done else reported)
    (memWriteActs cfg (spanAddr address j) (spanWord address length lead m j)
      ++ (if wait then readyPolls cfg ps else [])
      ++ (if due then [.report (BitVec.ofNat 32 done) length .write] else []) ++ rest.1, rest.2)

/-- What the target answers during one buffered write. -/
structure WriteTalk where
  into : Word × Word
  lead : Word × Word
  ready : List Poll
  back : Word × Word
deriving DecidableEq, Repr

/-- The start of a buffered write (R245): the mode, and the leading word's read if the span starts inside a word. -/
def leadActs (cfg : Params) (address : Word) (k : WriteTalk) : List Act :=
  modeActs cfg .write k.into
    ++ if address.setWidth 2 = 0#2 then [] else memReadActs cfg (alignDown address 4) k.lead.1 k.lead.2

/-- A whole buffered write (R245): the mode, the leading word's read if the span starts inside a word, the words, the closing
wait and report, the mode restored. -/
def bufferActs (cfg : Params) (address length : Word) (m : Memory) (k : WriteTalk) : List Act :=
  let body := spanActs cfg address length k.lead.2 m k.ready (spanWords address length) 0 0 0
  leadActs cfg address k ++ body.1 ++ (if body.2.1 = 0 then [] else readyPolls cfg k.ready)
    ++ (if body.2.2 = length.toNat then [] else [.report length length .write]) ++ modeActs cfg .readOnly k.back

/-- The buffered write's body is answered by a controller that follows; `back` is left open. -/
def WriteTalk.writes (cfg : Params) (k : WriteTalk) : Prop :=
  ShowsMode cfg .write k.into ∧ Settles cfg cfg.flash.writeWordTimeoutMs k.ready

/-- The buffered write is answered well to its end, the mode restored. -/
def WriteTalk.good (cfg : Params) (k : WriteTalk) : Prop :=
  k.writes cfg ∧ ShowsMode cfg .readOnly k.back

/-- A buffered write whose first ready wait is `ps`: the words up to the one that starts it, the `WRITE_POLL_INTERVAL_WORDS`-th
or the span's last; behind the last, the report that is due (R245). -/
def firstWaitActs (cfg : Params) (address length : Word) (m : Memory) (k : WriteTalk) (ps : List Poll) : List Act :=
  let words := spanWords address length
  let interval := cfg.flash.writePollIntervalWords
  if words < interval then
    leadActs cfg address k ++ (spanActs cfg address length k.lead.2 m [] words 0 0 0).1 ++ readyPolls cfg ps
  else
    leadActs cfg address k ++ (spanActs cfg address length k.lead.2 m [] (interval - 1) 0 0 0).1
      ++ memWriteActs cfg (spanAddr address (interval - 1)) (spanWord address length k.lead.2 m (interval - 1))
      ++ readyPolls cfg ps

/-! ### Mode restore (R242) -/

/-- The operations that switch the controller's mode and restore it on every exit path, once their precondition checks have
passed (R242). -/
def passesChecks (cfg : Params) : Instr → Prop
  | .erasePage a => cfg.flash.flashBase ≤ a.toNat ∧ a.toNat < cfg.flash.flashBase + cfg.flash.flashSize
  | .flashWriteWord a _ => wordAligned a = true
  | .writeBuffer a n => n ≠ 0#32 ∧ a.toNat + n.toNat ≤ 2 ^ 32
  | .eraseAll => True
  | _ => False

/-- `t` was left by a mode switch to ReadOnly from `u`: what the switch put on the wire and on the pins is the end of what `t`
shows, and `t` reports Ok only if the switch did (R242). -/
def RestoredFrom (u t : State) : Prop :=
  ∃ v, exec (.setControllerMode .readOnly) u = .next v ∧ t.trace = v.trace ∧ t.inputs = v.inputs ∧ t.pins = v.pins
    ∧ t.session = v.session ∧ (t.ports.rspStatus = statusOk → v.ports.rspStatus = statusOk)

/-! ### A firmware update (R247) -/

/-- How many pages a span touches. -/
def pageCount (cfg : Params) (start length : Word) : Nat :=
  let size := cfg.flash.pageSize
  (start.toNat + length.toNat - 1) / size - start.toNat / size + 1

/-- The pages from the j-th on, each erased and reported (R247). -/
def pagesActs (cfg : Params) (start : Word) (total : Nat) : Nat → List EraseTalk → List Act
  | _, [] => []
  | j, k :: ks =>
    let size := cfg.flash.pageSize
    eraseActs cfg (BitVec.ofNat 32 ((start.toNat / size + j) * size)) k
      ++ .report (BitVec.ofNat 32 ((j + 1) * size)) (BitVec.ofNat 32 (total * size)) .erase
      :: pagesActs cfg start total (j + 1) ks

/-- The words read back from the j-th on, each with its stale data, and the reports; `reported` bytes at the last one (R247). -/
def verifyActs (cfg : Params) (start length : Word) : Nat → Nat → List (Word × Word) → List Act
  | _, _, [] => []
  | j, reported, p :: ps =>
    let done := spanDone start length j
    let due : Bool := decide (cfg.flash.progressIntervalBytes ≤ done - reported) || done == length.toNat
    memReadActs cfg (spanAddr start j) p.1 p.2
      ++ (if due then [.report (BitVec.ofNat 32 done) length .verify] else [])
      ++ verifyActs cfg start length (j + 1) (if due then done else reported) ps

/-- The j-th word read back agrees with the buffer in every byte of the span (R247). -/
def VerifyAgrees (start length : Word) (m : Memory) (j : Nat) (w : Word) : Prop :=
  let lane := (start.setWidth 2).toNat
  ∀ k < 4, lane ≤ 4 * j + k → 4 * j + k < lane + length.toNat → byteLane w k = m.read (BitVec.ofNat 32 (4 * j + k - lane))

/-! ### The control access port (R280, R281) -/

/-- One index of the scan after the other, from the `i`-th on (R280). -/
def scanActs (cfg : Params) : Nat → List Poll → List Act
  | _, [] => []
  | i, p :: ps =>
    p.acts cfg cfg.engine.dpSelect false (selectWord (BitVec.ofNat 8 i) cfg.power.apIdr) (regLow cfg.power.apIdr)
      ++ scanActs cfg (i + 1) ps

/-- The identification value read is the control port's; a select or a read that failed is no match (R280, D30). -/
def idrMatches (cfg : Params) (p : Poll) : Prop :=
  ∃ v, p.value = some v ∧ v &&& cfg.ctrlAp.idrMask = cfg.ctrlAp.idrValue

/-- The scan that went as `ps` finds index `i`: the first match, or the fallback when the whole scan has none (R280). -/
def ScanFinds (cfg : Params) (ps : List Poll) (i : ApIndex) : Prop :=
  ((∃ before p, ps = before ++ [p] ∧ idrMatches cfg p ∧ (∀ q ∈ before, ¬ idrMatches cfg q)
      ∧ ps.length ≤ cfg.ctrlAp.scanCount ∧ i = BitVec.ofNat 8 before.length)
    ∨ (ps.length = cfg.ctrlAp.scanCount ∧ (∀ q ∈ ps, ¬ idrMatches cfg q) ∧ i = cfg.ctrlAp.fallbackIndex))
    ∧ ∀ p ∈ ps, p.possible cfg

/-- The status polls, `made` before them, each reported; the last shows the whole when `idle` (R281). -/
def statusActs (cfg : Params) (total : Nat) (idle : Bool) : Nat → List ApPoll → List Act
  | _, [] => []
  | made, [p] =>
    p.acts cfg (regLow cfg.ctrlAp.ctrlapEraseAllStatus)
      ++ [.report (BitVec.ofNat 32 (if idle then total else made + 1)) (BitVec.ofNat 32 total) .massErase]
  | made, p :: rest =>
    p.acts cfg (regLow cfg.ctrlAp.ctrlapEraseAllStatus)
      ++ [.report (BitVec.ofNat 32 (made + 1)) (BitVec.ofNat 32 total) .massErase, .pause .massErasePoll]
      ++ statusActs cfg total idle (made + 1) rest

/-- No poll of the list reads idle; a failed poll does not (R281, D23). -/
def StaysBusy (cfg : Params) (ps : List ApPoll) : Prop :=
  ∀ p ∈ ps, p.value ≠ some cfg.ctrlAp.statusIdle ∧ p.possible cfg

/-- What the target answers during one mass erase whose link came back. -/
structure MassTalk where
  scan : List Poll
  busy : List ApPoll
  idleStale : Word
  id : Word
  power : List DpPoll
  samples : List (Word × Word)
  status : Word × Word
deriving DecidableEq, Repr

/-- The sample reads behind a mass erase (R281). -/
def massSampleActs (cfg : Params) : List Word → List (Word × Word) → List Act
  | a :: as, p :: ps => memReadActs cfg a p.1 p.2 ++ massSampleActs cfg as ps
  | _, _ => []

/-- The start of a mass erase: scan, select, the optional reset, the trigger (R281). -/
def massStartActs (cfg : Params) (ap : ApIndex) (scan : List Poll) : List Act :=
  let c := cfg.ctrlAp
  scanActs cfg 0 scan ++ [selectAct cfg ap c.ctrlapReset]
    ++ (if c.assertReset then [.write (regLow c.ctrlapReset) true c.resetAssert] else [])
    ++ [.write (regLow c.ctrlapEraseAll) true c.eraseAllStart]

/-- Phase 2 (R281). -/
def massLeaveActs (cfg : Params) : List Act :=
  [.write (regLow cfg.ctrlAp.ctrlapReset) true cfg.ctrlAp.resetRelease,
    selectAct cfg cfg.power.memApIndex cfg.power.apCsw]

/-- A mass erase whose status reads idle behind the polls `busy`, reconnected by the dormant wake, to its end (R281). -/
def massActs (cfg : Params) (ap : ApIndex) (k : MassTalk) : List Act :=
  let c := cfg.ctrlAp
  massStartActs cfg ap k.scan
    ++ statusActs cfg (mpolls cfg c.massEraseTimeoutMs) true 0 (k.busy ++ [.saw k.idleStale c.statusIdle])
    ++ massLeaveActs cfg ++ [.send (resetBits cfg), .send (wakeBits cfg), .read cfg.engine.dpIdcode false k.id]
    ++ attachActs cfg k.power ++ memApActs cfg ++ massSampleActs cfg c.verifyAddrs k.samples
    ++ [selectAct cfg ap c.ctrlapApprotectStatus]
    ++ apReadActs cfg (regLow c.ctrlapApprotectStatus) k.status.1 k.status.2
    ++ [selectAct cfg cfg.power.memApIndex cfg.power.apCsw]

/-- The mass erase reaches its verification (R281): every poll before the last is busy and fits the budget, the link comes
back. -/
def MassTalk.reaches (cfg : Params) (ap : ApIndex) (k : MassTalk) : Prop :=
  ScanFinds cfg k.scan ap ∧ StaysBusy cfg k.busy
    ∧ k.busy.length < mpolls cfg cfg.ctrlAp.massEraseTimeoutMs ∧ deadIdcode k.id = false ∧ PowersUp cfg k.power
    ∧ k.samples.length = cfg.ctrlAp.verifyAddrs.length

/-- Every sample reads erased and the protection status reads unlocked (R282). -/
def MassTalk.verified (cfg : Params) (k : MassTalk) : Prop :=
  (∀ p ∈ k.samples, p.2 = cfg.flash.erasedWord) ∧ k.status.2 &&& cfg.ctrlAp.unlockedMask ≠ 0#32

end Sys2Proof.Machine
end

