-- ==== Sys2Proof/Machine/Text.lean ====
section
/-! DEFINITION. The textual form of a command and of its result (`30_encoding.md` R127, the notation of `95_test_vectors.md`) and
the names that expand to operations (R128). -/

namespace Sys2Proof.Machine

/-- The hexadecimal digits of a number, capital letters, at least `width` of them. -/
def hexDigits (width n : Nat) : List Char :=
  let digits := (Nat.toDigits 16 n).map Char.toUpper
  List.replicate (width - digits.length) '0' ++ digits

/-- A number in C notation (R127; the choice of base and digits is log 31). -/
def cNumber (n : Nat) : String := "0x" ++ String.ofList (hexDigits 1 n)

/-- A Boolean operand (R127). -/
def cBool (b : Bool) : String := if b then "true" else "false"

/-- A byte buffer, `[b0, b1, ...]`, its first `n` bytes (R127). -/
def cBuffer (m : Memory) (n : Nat) : String :=
  "[" ++ String.intercalate ", " ((List.range n).map fun i => cNumber (m.read (BitVec.ofNat 32 i)).toNat) ++ "]"

/-- The mode operand by its name (R241). -/
def modeText : NvmcMode → String
  | .readOnly => "ReadOnly"
  | .write => "Write"
  | .erase => "Erase"

/-- The textual form of an operation with the buffer it lends: the name, then the operands in the order of the document's
signature; none for a wire format, which is no command (R127). DESIGN CHOICE: R127 gives a LinkConfig operand no form and
`95_test_vectors.md` writes a name for it; the text of `linkInit` shows the two opaque handle words (log 37). -/
def commandText (m : Memory) : Instr → Option String
  | .linkInit a d => some ("linkInit " ++ cNumber a.toNat ++ " " ++ cNumber d.toNat)
  | .clockPulse => some "clockPulse"
  | .writeBits v n => some ("writeBits " ++ cNumber v.toNat ++ " " ++ toString n.toNat)
  | .readBits n => some ("readBits " ++ toString n.toNat)
  | .turnaround t => some ("turnaround " ++ cBool t)
  | .lineReset => some "lineReset"
  | .jtagToSwdSequence => some "jtagToSwdSequence"
  | .dormantWakeSequence => some "dormantWakeSequence"
  | .parity32 v => some ("parity32 " ++ cNumber v.toNat)
  | .connect => some "connect"
  | .disconnect => some "disconnect"
  | .isConnected => some "isConnected"
  | .resetTarget => some "resetTarget"
  | .rawTransfer a p r d =>
      some ("rawTransfer " ++ cNumber a.toNat ++ " " ++ cBool p ++ " " ++ cBool r ++ " " ++ cNumber d.toNat)
  | .dpRead a => some ("dpRead " ++ cNumber a.toNat)
  | .dpWrite a d => some ("dpWrite " ++ cNumber a.toNat ++ " " ++ cNumber d.toNat)
  | .apRead a => some ("apRead " ++ cNumber a.toNat)
  | .apWrite a d => some ("apWrite " ++ cNumber a.toNat ++ " " ++ cNumber d.toNat)
  | .powerUp => some "powerUp"
  | .memApInit => some "memApInit"
  | .readWord a => some ("readWord " ++ cNumber a.toNat)
  | .writeWord a v => some ("writeWord " ++ cNumber a.toNat ++ " " ++ cNumber v.toNat)
  | .waitControllerReady t => some ("waitControllerReady " ++ toString t.toNat)
  | .setControllerMode md => some ("setControllerMode " ++ modeText md)
  | .erasePage a => some ("erasePage " ++ cNumber a.toNat)
  | .flashWriteWord a d => some ("flashWriteWord " ++ cNumber a.toNat ++ " " ++ cNumber d.toNat)
  | .writeBuffer a n => some ("writeBuffer " ++ cNumber a.toNat ++ " " ++ cBuffer m n.toNat)
  | .eraseAll => some "eraseAll"
  | .updateFirmware a n v =>
      some ("updateFirmware " ++ cNumber a.toNat ++ " " ++ cBuffer m n.toNat ++ " verify=" ++ cBool v)
  | .findControlAccessPort => some "findControlAccessPort"
  | .massErase => some "massErase"
  | .reqDpRead0 => none
  | .reqDpRead4 => none
  | .reqDpRead8 => none
  | .reqDpReadC => none
  | .reqDpWrite0 _ => none
  | .reqDpWrite4 _ => none
  | .reqDpWrite8 _ => none
  | .reqDpWriteC _ => none
  | .reqApRead0 => none
  | .reqApRead4 => none
  | .reqApRead8 => none
  | .reqApReadC => none
  | .reqApWrite0 _ => none
  | .reqApWrite4 _ => none
  | .reqApWrite8 _ => none
  | .reqApWriteC _ => none
  | .ackReserved000 => none
  | .ackOk => none
  | .ackWait => none
  | .ackReserved011 => none
  | .ackFault => none
  | .ackReserved101 => none
  | .ackReserved110 => none
  | .ackReserved111 => none
  | .frameReadOk _ _ _ _ => none
  | .frameWriteOk _ _ _ => none
  | .frameNotOk _ _ _ _ => none
  | .seqLineReset => none
  | .seqJtagToSwd => none
  | .seqDormantWake => none

/-- The name of a result code (R300). -/
def ErrCode.text : ErrCode → String
  | .eWaitExhausted => "E_WAIT_EXHAUSTED"
  | .eFault => "E_FAULT"
  | .eParity => "E_PARITY"
  | .eProtocol => "E_PROTOCOL"
  | .eTimeout => "E_TIMEOUT"
  | .eMisaligned => "E_MISALIGNED"
  | .eRange => "E_RANGE"
  | .eConfig => "E_CONFIG"
  | .eUnsupported => "E_UNSUPPORTED"
  | .eMode => "E_MODE"
  | .eEraseVerify => "E_ERASE_VERIFY"
  | .eWriteVerify => "E_WRITE_VERIFY"
  | .eMassEraseVerify => "E_MASS_ERASE_VERIFY"
  | .eConnect => "E_CONNECT"
  | .eNoTarget => "E_NO_TARGET"

/-- An expected result behind `-> `, a value in eight digits as the rules' examples have it (R127; log 31). -/
def resultText : Except ErrCode (Option Word) → String
  | .ok none => "Ok"
  | .ok (some v) => "Ok(0x" ++ String.ofList (hexDigits 8 v.toNat) ++ ")"
  | .error c => "Err(" ++ c.text ++ ")"

/-- A pseudo-operation, a name that expands to operations (R128). -/
inductive Pseudo where
  | readWord (addr : Word)
  | writeWord (addr value : Word)
  | reconnect
  | clearStickyErrors
  | selectAp (apIndex : ApIndex) (reg8 : Reg8)
  | idle (count : BitVec 6)
deriving DecidableEq, Repr

/-- The operations a pseudo-operation stands for, in order, under the block's configuration (R128, R176). -/
def Pseudo.expand (cfg : Params) : Pseudo → List Instr
  | .readWord a => [.readWord a]
  | .writeWord a v => [.writeWord a v]
  | .reconnect => [.disconnect, .connect]
  | .clearStickyErrors => [.dpWrite cfg.engine.dpAbort cfg.engine.abortClearPattern]
  | .selectAp i r => [.dpWrite cfg.engine.dpSelect (selectWord i r)]
  | .idle n => [.writeBits 0#32 n]

end Sys2Proof.Machine
end

