-- ==== Sys2Proof/Certificates/Slice0/Obligations.lean ====
section
/-! DEFINITION. The statements for the provers, in the order of the spec's files. Each docstring names the rule it formalises; a
clause that rests on a choice of the model says so and names its log entry. -/

open Sys2Proof Sys2Proof.Machine

/-! ### Calls and steps -/

/-- R26, R34, R41: a call presented while `BUSY` = 0 whose request decodes to `i` runs `exec i` between `accept`, which raises
`BUSY` and presents the call's operands, and `retire`, which drops `BUSY` and leaves what the operation did on the wire, on the
pins and on the ports. What `accept` and `retire` do with unspecified registers is the model's choice (log 5). -/
def Obligations.StepRunsDecodedInstruction : Prop :=
  ∀ (s : State) (c : HostCall) (rest : List HostCall) (i : Instr),
    s.inputs.stream = c :: rest → s.session.busy = false → decode c.request = .ok i →
      (∀ t, exec i (s.accept c rest) = .next t → step s = .next t.retire)
      ∧ (∀ f, exec i (s.accept c rest) = .fault f → step s = .fault f)
      ∧ (∀ r, exec i (s.accept c rest) = .refused r → step s = .refused r)
      ∧ (s.accept c rest).session.busy = true
      ∧ (s.accept c rest).inputs
          = { line := s.inputs.line, stream := rest, buffer := c.buffer, callback := c.callback, config := c.config }
      ∧ (s.accept c rest).cfg = s.cfg ∧ (s.accept c rest).pins = s.pins ∧ (s.accept c rest).trace = s.trace
      ∧ (s.accept c rest).linkRegs = s.linkRegs ∧ (s.accept c rest).seqRegs = s.seqRegs
      ∧ (∀ op, requestOp c.request = some op → (s.accept c rest).session.op = op)
      ∧ ∀ t : State, t.retire.session.busy = false ∧ t.retire.cfg = t.cfg ∧ t.retire.pins = t.pins
          ∧ t.retire.trace = t.trace ∧ t.retire.ports = t.ports ∧ t.retire.inputs = t.inputs
          ∧ t.retire.session.driveState = t.session.driveState
          ∧ t.retire.session.connectionState = t.session.connectionState
          ∧ t.retire.session.lock = t.session.lock ∧ t.retire.session.idcodeReg = t.session.idcodeReg

/-- R119, R321: the command port answers a code that R123 does not list or lists as internal with `E_UNSUPPORTED` and touches
nothing; the codes it accepts are the thirteen external ones. -/
def Obligations.PortRefusesOtherCodes : Prop :=
  (∀ op : BitVec 8, externalOp op = true ↔
      op ∈ [0x00#8, 0x10#8, 0x11#8, 0x12#8, 0x13#8, 0x32#8, 0x33#8, 0x42#8, 0x43#8, 0x44#8, 0x45#8, 0x46#8, 0x51#8])
  ∧ ∀ (s : State) (c : HostCall) (rest : List HostCall) (cmd : Command),
      s.inputs.stream = c :: rest → s.session.busy = false → c.request = .port cmd → externalOp cmd.op = false →
        ∃ t, step s = .next t ∧ Responded 0x09#8 t ∧ t.trace = s.trace ∧ t.pins = s.pins ∧ t.session = s.session
          ∧ t.linkRegs = s.linkRegs ∧ t.seqRegs = s.seqRegs ∧ t.cfg = s.cfg ∧ t.inputs.line = s.inputs.line
          ∧ t.inputs.stream = rest

/-- R26, R27, R41, R343: a step takes exactly one call off the host's stream, whatever the call's result, and leaves `BUSY` = 0 if
it took one; without a call the block waits, and only the one-cycle pulses fall. That the pulses last until the next step, and
that the values beside them are kept while they are 0, is the model's choice (log 16), and that a wire row or an internal
operation called directly ends in a response too is as well (logs 1 and 27). A call that waits while `BUSY` = 1 is not
accepted: there the model has no transition (log 12). -/
def Obligations.EveryStepTakesOneCall : Prop :=
  (∀ s t : State, step s = .next t →
      t.inputs.stream = s.inputs.stream.tail
      ∧ (s.inputs.stream ≠ [] → t.session.busy = false ∧ t.ports.rspValid = true))
  ∧ (∀ s : State, s.inputs.stream = [] →
      step s = .next { s with ports := { s.ports with rspValid := false, progValid := false } })
  ∧ ∀ s : State, s.inputs.stream ≠ [] → s.session.busy = true → step s = .refused .callWhileBusy

/-- R26, R316 (4), R300: every instruction ends in one response, whose code is at most 0x0E: codes 0x10 to 0xFF are not
produced, and `E_NO_TARGET` never leaves `connect` or `isConnected`. That the 30 wire rows are instructions and answer (log 1),
and that they and an internal operation called directly answer with a code on the response port (log 27), is the model's
choice. -/
def Obligations.EveryInstructionAnswers : Prop :=
  ∀ (i : Instr) (s : State), ∃ t, exec i s = .next t ∧ t.ports.rspValid = true ∧ t.ports.rspStatus.toNat ≤ 0x0E

/-! ### Encodings -/

/-- The decoder reads back every well-formed instruction the encoder writes, with every operand (R104, R110, R122, R123; the
layout of the wire rows is log 22). -/
def Obligations.DecodeEncode : Prop :=
  ∀ i : Instr, i.wf = true → decode (encode i) = .ok i

/-- What the decoder answers is well-formed: a count above 32 and an OK acknowledgement in a not-OK frame never get through
(R102, R141, R142, D11). -/
def Obligations.DecodedIsWellFormed : Prop :=
  ∀ (r : Request) (i : Instr), decode r = .ok i → i.wf = true

/-- Words of several formats, with the fields of R102, R104, R107 to R109, R112 and R123. That a frame's turnaround pulses stand
as bits of the word, and that a write request's payload stands behind its byte, is the model's choice (log 22). -/
def Obligations.DecodesWrittenWords : Prop :=
  decode (.wire [true, false, true, false, false, true, false, true]) = .ok .reqDpRead0
  ∧ decode (.wire ([true, true, false, true, true, true, false, true] ++ List.replicate 31 false ++ [true]))
      = .ok (.reqApWriteC 0x80000000#32)
  ∧ decode (.wire [false, true, false]) = .ok .ackWait
  ∧ decode (.wire [false, false, true]) = .ok .ackFault
  ∧ decode (.wire ([true, false, true, true, true, true, false, true] ++ [false] ++ [true, false, false]
      ++ [true] ++ List.replicate 31 false ++ [true] ++ [true, false])) = .ok (.frameReadOk false 3#2 1#32 true)
  ∧ decode (.wire ([true, false, false, false, true, true, false, true] ++ [false] ++ [true, false, false] ++ [true]
      ++ List.replicate 24 false ++ [true] ++ List.replicate 7 false ++ [true, false]))
      = .ok (.frameWriteOk false 2#2 0x01000000#32)
  ∧ decode (.wire ([true, true, true, true, true, false, false, true] ++ [false] ++ [true, true, true] ++ [true]
      ++ List.replicate 33 false)) = .ok (.frameNotOk true true 3#2 7#3)
  ∧ decode (.wire (List.replicate 60 true ++ [false])) = .ok .seqLineReset
  ∧ decode (.port { op := 0x43#8, addr := 0x2000#32, data := 0xDEADBEEF#32 })
      = .ok (.flashWriteWord 0x2000#32 0xDEADBEEF#32)
  ∧ decode (.port { op := 0x46#8, addr := 0xFFE#32, len := 4#32, flags := 0xFF#8 })
      = .ok (.updateFirmware 0xFFE#32 4#32 true)
  ∧ decode (.direct { op := 0x20#8, addr := 0xFC#32, data := 7#32, flags := 2#8 })
      = .ok (.rawTransfer 0xC#4 true false 7#32)
  ∧ decode (.direct { op := 0x41#8, data := 2#32 }) = .ok (.setControllerMode .erase)

/-- R104, R105, R148: the request byte, its parity, and the order of its bits on the wire. -/
def Obligations.RequestByteOfR104 : Prop :=
  ∀ (addr : Addr4) (isAP isRead : Bool),
    let par := Bool.xor isAP (Bool.xor isRead (Bool.xor (addr.getLsbD 2) (addr.getLsbD 3)))
    requestParity addr isAP isRead = par
    ∧ requestByte addr isAP isRead
        = (0x81#8 ||| ((BitVec.ofBool isAP).setWidth 8 <<< 1) ||| ((BitVec.ofBool isRead).setWidth 8 <<< 2)
            ||| ((BitVec.ofBool (addr.getLsbD 2)).setWidth 8 <<< 3)
            ||| ((BitVec.ofBool (addr.getLsbD 3)).setWidth 8 <<< 4) ||| ((BitVec.ofBool par).setWidth 8 <<< 5))
    ∧ lsbBits (requestByte addr isAP isRead) 8
        = [true, isAP, isRead, addr.getLsbD 2, addr.getLsbD 3, par, false, true]

/-- R107, R104: the sixteen request bytes, each with its row. That a row is run as one whole `rawTransfer` is the model's choice
(log 1), and that a write row carries its 32 payload bits behind the byte is too (log 22). -/
def Obligations.SixteenRequestBytes : Prop :=
  ∀ d : Word,
    encode .reqDpRead0 = .wire (lsbBits 0xA5#8 8) ∧ encode .reqDpRead4 = .wire (lsbBits 0x8D#8 8)
    ∧ encode .reqDpRead8 = .wire (lsbBits 0x95#8 8) ∧ encode .reqDpReadC = .wire (lsbBits 0xBD#8 8)
    ∧ encode (.reqDpWrite0 d) = .wire (lsbBits 0x81#8 8 ++ lsbBits d 32)
    ∧ encode (.reqDpWrite4 d) = .wire (lsbBits 0xA9#8 8 ++ lsbBits d 32)
    ∧ encode (.reqDpWrite8 d) = .wire (lsbBits 0xB1#8 8 ++ lsbBits d 32)
    ∧ encode (.reqDpWriteC d) = .wire (lsbBits 0x99#8 8 ++ lsbBits d 32)
    ∧ encode .reqApRead0 = .wire (lsbBits 0x87#8 8) ∧ encode .reqApRead4 = .wire (lsbBits 0xAF#8 8)
    ∧ encode .reqApRead8 = .wire (lsbBits 0xB7#8 8) ∧ encode .reqApReadC = .wire (lsbBits 0x9F#8 8)
    ∧ encode (.reqApWrite0 d) = .wire (lsbBits 0xA3#8 8 ++ lsbBits d 32)
    ∧ encode (.reqApWrite4 d) = .wire (lsbBits 0x8B#8 8 ++ lsbBits d 32)
    ∧ encode (.reqApWrite8 d) = .wire (lsbBits 0x93#8 8 ++ lsbBits d 32)
    ∧ encode (.reqApWriteC d) = .wire (lsbBits 0xBB#8 8 ++ lsbBits d 32)
    ∧ ∀ (i : Instr) (a : Addr4) (p r : Bool) (w : Word), transferOf i = some (a, p, r, w) →
        ∀ s : State, exec i s = .next (respondXfer r (rawTransfer a p r w s))

/-- R106, R117: only `addr[3:2]` reach the wire; an access-port register splits into its bank, in the select word, and the
transaction's address, the low four bits; the select word's fields and zero bits, and the rule's examples. -/
def Obligations.AddressAssembly : Prop :=
  (∀ (a b : Addr4) (isAP isRead : Bool), a.getLsbD 2 = b.getLsbD 2 → a.getLsbD 3 = b.getLsbD 3 →
      requestByte a isAP isRead = requestByte b isAP isRead)
  ∧ (∀ reg8 : Reg8, regLow reg8 = reg8.extractLsb' 0 4)
  ∧ (∀ (i : ApIndex) (reg8 : Reg8),
      selectWord i reg8 = ((i.setWidth 32) <<< 24) ||| (((reg8.extractLsb' 4 4).setWidth 32) <<< 4)
      ∧ (selectWord i reg8).extractLsb' 24 8 = i ∧ (selectWord i reg8).extractLsb' 4 4 = reg8.extractLsb' 4 4
      ∧ (selectWord i reg8).extractLsb' 8 16 = 0#16 ∧ (selectWord i reg8).extractLsb' 0 4 = 0#4)
  ∧ selectWord 0#8 0x00#8 = 0#32
  ∧ ∀ i : ApIndex, selectWord i 0xFC#8 = (((i.setWidth 32) <<< 24) ||| 0xF0#32)
      ∧ selectWord i 0x00#8 = ((i.setWidth 32) <<< 24)

/-! ### Bit-Level Link -/

/-- R140: a pulse called alone: `SWCLK` ends low, one event, nothing else of the block changes but the response. Which event
stands for it is the model's choice (log 14). That an internal operation answers on the response port is log 27. -/
def Obligations.ClockPulseEffect : Prop :=
  ∀ s : State, ∃ t e, exec .clockPulse s = .next t ∧ Responded statusOk t ∧ t.trace = s.trace ++ [e]
    ∧ e.isPulse = true ∧ t.pins = { s.pins with swclk := false } ∧ t.session = s.session
    ∧ t.linkRegs = s.linkRegs ∧ t.seqRegs = s.seqRegs ∧ t.inputs = s.inputs ∧ t.cfg = s.cfg ∧ HostPortsKept s t

/-- R141: `writeBits`: the turnaround that is due, then the low `count` bits, least significant first. That an internal
operation answers on the response port is log 27. -/
def Obligations.WriteBitsEffect : Prop :=
  (∀ c : Command, c.op = 0x02#8 → c.len.toNat ≤ 32 →
      decode (.direct c) = .ok (.writeBits c.data (c.len.setWidth 6)) ∧ decode (.port c) = .error (.notAccepted 0x02#8))
  ∧ ∀ (v : Word) (n : BitVec 6) (s : State), n.toNat ≤ 32 → Quiet s →
      ∃ t, exec (.writeBits v n) s = .next t ∧ Responded statusOk t
        ∧ t.trace = s.trace ++ entryTurn s ++ wEvents (lsbBits v n.toNat)
        ∧ t.pins =
            { s.pins with
              swdioOe := true
              swdioOut := (lsbBits v n.toNat).getLastD (if s.session.driveState = .released then true else s.pins.swdioOut) }
        ∧ t.session = { s.session with driveState := .driven } ∧ t.seqRegs = s.seqRegs ∧ t.inputs = s.inputs
        ∧ t.cfg = s.cfg ∧ HostPortsKept s t
        ∧ t.linkRegs = { s.linkRegs with shift := t.linkRegs.shift, bitcnt := t.linkRegs.bitcnt }

/-- R142: `readBits`: the turnaround that is due, then `count` samples, each before its pulse, gathered least significant bit
first; where the target drives, the sample is what it drives; the other samples this leaves open. That an internal operation
answers on the response port is log 27. -/
def Obligations.ReadBitsEffect : Prop :=
  (∀ c : Command, c.op = 0x03#8 → c.len.toNat ≤ 32 →
      decode (.direct c) = .ok (.readBits (c.len.setWidth 6)) ∧ decode (.port c) = .error (.notAccepted 0x03#8))
  ∧ ∀ (n : BitVec 6) (s : State), n.toNat ≤ 32 → Quiet s →
      ∃ t bs, exec (.readBits n) s = .next t ∧ RespondedWith (ofLsbBits 32 bs) t ∧ bs.length = n.toNat
        ∧ (∀ k b, k < n.toNat → s.inputs.line[k]? = some (some b) → bs[k]? = some b)
        ∧ (∀ k, k < n.toNat → bs[k]? = some ((ofLsbBits 32 bs).getLsbD k))
        ∧ t.trace = s.trace ++ exitTurn s ++ rEvents bs
        ∧ t.pins =
            { s.pins with
              swdioOe := false
              swdioOut := if s.session.driveState = .driven then true else s.pins.swdioOut }
        ∧ t.session = { s.session with driveState := .released } ∧ t.seqRegs = s.seqRegs
        ∧ t.inputs = { s.inputs with line := s.inputs.line.drop n.toNat } ∧ t.cfg = s.cfg ∧ HostPortsKept s t
        ∧ t.linkRegs = { s.linkRegs with shift := t.linkRegs.shift, bitcnt := t.linkRegs.bitcnt }

/-- R143: `turnaround`: the latch high, the enable to the direction, exactly one pulse, `DriveState`; also when the line
already has the direction. That an internal operation answers on the response port is log 27. -/
def Obligations.TurnaroundEffect : Prop :=
  (∀ c : Command, c.op = 0x04#8 →
      decode (.direct c) = .ok (.turnaround (c.flags.getLsbD 0)) ∧ decode (.port c) = .error (.notAccepted 0x04#8))
  ∧ ∀ (toWrite : Bool) (s : State), ∃ t, exec (.turnaround toWrite) s = .next t ∧ Responded statusOk t
      ∧ t.trace = s.trace ++ [.t toWrite]
      ∧ t.pins = { s.pins with swclk := false, swdioOut := true, swdioOe := toWrite }
      ∧ t.session = { s.session with driveState := if toWrite then .driven else .released }
      ∧ t.linkRegs = s.linkRegs ∧ t.seqRegs = s.seqRegs ∧ t.inputs = s.inputs ∧ t.cfg = s.cfg ∧ HostPortsKept s t

/-- R112 to R114, R144 to R146: the three sequences, as operations and as wire rows: the turnaround that is due, then the
sequence's bits, and the line is driven at the end. That the counts of high and low cycles are those of any configuration rests
on log 15, and that a wire row runs its operation on log 1. That an internal operation answers on the response port is log
27. -/
def Obligations.FixedSequencesEffect : Prop :=
  ∀ (i : Instr) (s : State) (bits : List Bool), Quiet s → sequenceOf s.cfg i = some bits →
    ∃ t, exec i s = .next t ∧ Responded statusOk t ∧ t.trace = s.trace ++ entryTurn s ++ wEvents bits
      ∧ t.pins =
          { s.pins with
            swdioOe := true
            swdioOut := bits.getLastD (if s.session.driveState = .released then true else s.pins.swdioOut) }
      ∧ t.session = { s.session with driveState := .driven } ∧ t.seqRegs = s.seqRegs ∧ t.inputs = s.inputs
      ∧ t.cfg = s.cfg ∧ HostPortsKept s t
      ∧ t.linkRegs = { s.linkRegs with shift := t.linkRegs.shift, bitcnt := t.linkRegs.bitcnt }

/-- R112 to R116: the three sequences at R7's values, from a line that is driven: each operation puts exactly the printed bits
on the wire, 61, 77 and 209 pulses; the alert is four words, each most significant bit first, the activation code least
significant bit first. That the three wire rows run the same is the model's choice (log 1). -/
def Obligations.FixedSequenceBits : Prop :=
  ∀ s : State, Parked s → s.cfg.wire = defaultWire →
    let sends (i : Instr) (bits : List Bool) : Prop := ∃ t, exec i s = .next t ∧ t.trace = s.trace ++ wEvents bits
    let reset := List.replicate 60 true ++ [false]
    let magic := [false, true, true, true, true, false, false, true, true, true, true, false, false, true, true, true]
    let alert := lsbBits (0x19BC0EA2E3DDAFE986852D956209F392#128) 128
    let wake := List.replicate 8 true ++ alert ++ List.replicate 4 false
      ++ [false, true, false, true, true, false, false, false] ++ reset
    sends .lineReset reset ∧ sends .seqLineReset reset
    ∧ sends .jtagToSwdSequence (magic ++ reset) ∧ sends .seqJtagToSwd (magic ++ reset)
    ∧ sends .dormantWakeSequence wake ∧ sends .seqDormantWake wake
    ∧ magic = lsbBits 0xE79E#16 16
    ∧ alert = msbBits 0x49CF9046#32 ++ msbBits 0xA9B4A161#32 ++ msbBits 0x97F5BBC7#32 ++ msbBits 0x45703D98#32
    ∧ [false, true, false, true, true, false, false, false] = lsbBits 0x1A#8 8
    ∧ pulses (wEvents reset) = 61 ∧ pulses (wEvents (magic ++ reset)) = 77 ∧ pulses (wEvents wake) = 209

/-- R147: `parity32` is the exclusive or of all 32 bits, a pure function: its call gives the bit and touches nothing. That an
internal operation answers on the response port is log 27. -/
def Obligations.ParityIsXorOfAllBits : Prop :=
  (∀ v : Word, Sys2Proof.Machine.parity32 v
      = (List.range 32).foldl (fun acc k => Bool.xor acc (v.getLsbD k)) false)
  ∧ (∀ n : BitVec 4, parityLut n
      = Bool.xor (n.getLsbD 0) (Bool.xor (n.getLsbD 1) (Bool.xor (n.getLsbD 2) (n.getLsbD 3))))
  ∧ (∀ (v : Word) (s : State), ∃ t, exec (.parity32 v) s = .next t ∧ OnlyResponded s t
      ∧ RespondedWith (if Sys2Proof.Machine.parity32 v then 1#32 else 0#32) t)
  ∧ (∀ c : Command, c.op = 0x08#8 →
      decode (.direct c) = .ok (.parity32 c.data) ∧ decode (.port c) = .error (.notAccepted 0x08#8))

/-! ### Transaction Engine -/

/-- R193, R110: an OK read frame: 32 data bits, the parity bit, the turnaround and the idle bit whether or not the parity
matches; the word is delivered when it does; when it does not, the word is not delivered: what stands on `RSP_DATA` is a free
value, drawn without regard to the word (log 4). That the eight read rows are transfers is the model's choice (log 1). That an
internal operation answers on the response port is log 27. -/
def Obligations.ReadParityDecides : Prop :=
  ∀ (i : Instr) (s : State) (a : Addr4) (p : Bool) (w data : Word) (par : Bool) (rest : List (Option Bool)),
    transferOf i = some (a, p, true, w) → LineShows (okReadAnswer s.cfg data par) rest s →
      ∃ t, exec i s = .next t ∧ Responded statusOk t
        ∧ t.trace = s.trace ++ entryTurn s ++ okReadEvents s.cfg a p data par
        ∧ (par = Sys2Proof.Machine.parity32 data → t.ports.xferStatus = .ok ∧ t.ports.rspData = data)
        ∧ (par ≠ Sys2Proof.Machine.parity32 data →
            t.ports.xferStatus = .parity ∧ t.ports.rspData = Config.freeWord s.draws)
        ∧ t.linkRegs.req = requestByte a p true ∧ t.linkRegs.ack = s.cfg.engine.ackOk
        ∧ t.linkRegs.rdata = data ∧ t.linkRegs.rpar = par ∧ t.linkRegs.wdata = s.linkRegs.wdata
        ∧ TransferFrame rest s t

/-- R194, R110: an OK write frame: the turnaround, the payload least significant bit first, its parity, the idle bit. That the
eight write rows are transfers is the model's choice (log 1), and that `WDATA` is loaded in this phase is too (log 33). That an
internal operation answers on the response port is log 27. -/
def Obligations.OkWriteFrame : Prop :=
  ∀ (i : Instr) (s : State) (a : Addr4) (p : Bool) (w : Word) (rest : List (Option Bool)),
    transferOf i = some (a, p, false, w) → LineShows (lsbBits s.cfg.engine.ackOk 3) rest s →
      ∃ t, exec i s = .next t ∧ Responded statusOk t ∧ t.ports.xferStatus = .ok
        ∧ t.trace = s.trace ++ entryTurn s ++ okWriteEvents s.cfg a p w
        ∧ t.linkRegs.req = requestByte a p false ∧ t.linkRegs.ack = s.cfg.engine.ackOk ∧ t.linkRegs.wdata = w
        ∧ t.linkRegs.rdata = s.linkRegs.rdata ∧ t.linkRegs.rpar = s.linkRegs.rpar ∧ TransferFrame rest s t

/-- R195, R192: a frame acknowledged otherwise, read or write: the turnaround, 32 dummy bits, the idle bit, no parity bit; the
status says which acknowledgement it was. That the sixteen request rows are transfers is the model's choice (log 1), and that
`WDATA` keeps its value is too (log 33). That an internal operation answers on the response port is log 27. -/
def Obligations.NotOkFrame : Prop :=
  ∀ (i : Instr) (s : State) (a : Addr4) (p r : Bool) (w : Word) (ack : BitVec 3) (rest : List (Option Bool)),
    transferOf i = some (a, p, r, w) → ack ≠ s.cfg.engine.ackOk → LineShows (lsbBits ack 3) rest s →
      ∃ t, exec i s = .next t ∧ Responded statusOk t
        ∧ t.ports.xferStatus
            = (if ack = s.cfg.engine.ackWait then .wait else if ack = s.cfg.engine.ackFault then .fault else .other ack)
        ∧ t.trace = s.trace ++ entryTurn s ++ notOkEvents s.cfg a p r ack
        ∧ t.linkRegs.req = requestByte a p r ∧ t.linkRegs.ack = ack ∧ t.linkRegs.wdata = s.linkRegs.wdata
        ∧ t.linkRegs.rdata = s.linkRegs.rdata ∧ t.linkRegs.rpar = s.linkRegs.rpar ∧ TransferFrame rest s t

/-- R102, R103, R350: whatever the line shows, also where nobody drives it, a frame has 47 pulses when the acknowledgement read
is OK and 46 otherwise, one of them `T(0)` and one `T(1)`. That the sixteen request rows are transfers is the model's choice
(log 1). -/
def Obligations.FrameLengthFollowsAck : Prop :=
  ∀ (i : Instr) (s t : State) (a : Addr4) (p r : Bool) (w : Word),
    transferOf i = some (a, p, r, w) → exec i s = .next t →
      ∃ es, t.trace = s.trace ++ entryTurn s ++ es
        ∧ pulses es = (if t.linkRegs.ack = s.cfg.engine.ackOk then 47 else 46)
        ∧ es.count (.t false) = 1 ∧ es.count (.t true) = 1

/-- R102, R193: a frame row is a transfer answered with its own bits, a word with the wrong parity not delivered (log 4); the
line's pending bits stay (log 1). That a row answers on the response port is log 27. -/
def Obligations.FrameRows : Prop :=
  ∀ (s : State) (isAP isRead : Bool) (reg : BitVec 2) (data : Word) (par : Bool) (ack : BitVec 3),
    (∃ t, exec (.frameReadOk isAP reg data par) s = .next t ∧ Responded statusOk t
        ∧ t.trace = s.trace ++ entryTurn s ++ okReadEvents s.cfg (regAddr reg) isAP data par
        ∧ t.ports.xferStatus = (if par = Sys2Proof.Machine.parity32 data then .ok else .parity)
        ∧ (par = Sys2Proof.Machine.parity32 data → t.ports.rspData = data)
        ∧ (par ≠ Sys2Proof.Machine.parity32 data → t.ports.rspData = Config.freeWord s.draws)
        ∧ TransferFrame s.inputs.line s t)
    ∧ (∃ t, exec (.frameWriteOk isAP reg data) s = .next t ∧ Responded statusOk t
        ∧ t.trace = s.trace ++ entryTurn s ++ okWriteEvents s.cfg (regAddr reg) isAP data
        ∧ t.ports.xferStatus = .ok ∧ TransferFrame s.inputs.line s t)
    ∧ (ack ≠ s.cfg.engine.ackOk →
        ∃ t, exec (.frameNotOk isAP isRead reg ack) s = .next t ∧ Responded statusOk t
          ∧ t.trace = s.trace ++ entryTurn s ++ notOkEvents s.cfg (regAddr reg) isAP isRead ack
          ∧ t.ports.xferStatus
              = (if ack = s.cfg.engine.ackWait then .wait else if ack = s.cfg.engine.ackFault then .fault
                  else .other ack)
          ∧ TransferFrame s.inputs.line s t)

/-- R192, R108, R109: an acknowledgement row is the acknowledgement phase of a frame, answered with that code: the turnaround
into release that is due, three samples, the code in `ACK`, and what the decoder makes of it (log 1). That a row answers on the
response port is log 27. -/
def Obligations.AcknowledgementRows : Prop :=
  ∀ (i : Instr) (k : BitVec 3) (s : State), ackOf i = some k → Quiet s →
    ∃ t, exec i s = .next t ∧ Responded statusOk t ∧ t.trace = s.trace ++ exitTurn s ++ rEvents (lsbBits k 3)
      ∧ t.linkRegs.ack = k
      ∧ t.ports.xferStatus
          = (if k = s.cfg.engine.ackOk then .ok else if k = s.cfg.engine.ackWait then .wait
              else if k = s.cfg.engine.ackFault then .fault else .other k)
      ∧ t.session = { s.session with driveState := .released } ∧ t.inputs = s.inputs ∧ t.seqRegs = s.seqRegs
      ∧ t.cfg = s.cfg ∧ t.pins.nreset = s.pins.nreset ∧ Quiet t ∧ HostPortsKept s t
      ∧ t.linkRegs
          = { s.linkRegs with shift := t.linkRegs.shift, bitcnt := t.linkRegs.bitcnt, ack := k }

/-- R197 to R202: `dpRead`, `dpWrite` and `apWrite` succeed at whichever attempt is acknowledged OK: behind any list of failed
attempts shorter than `MAX_ATTEMPTS`, each with its recovery action, the same request is sent once more and its result
returned. That an internal operation answers on the response port is log 27. -/
def Obligations.AccessSucceedsAtAnyAttempt : Prop :=
  ∀ (s : State) (fs : List Attempt) (addr : Addr4) (v : Word) (rest : List (Option Bool)),
    Parked s → AckCodesDistinct s.cfg → fs.length < s.cfg.engine.maxAttempts →
      ((∀ f ∈ fs, f.possible s.cfg true) →
        Answers (attemptActs s.cfg addr false true fs ++ [.read addr false v]) rest s →
          ∃ t, exec (.dpRead addr) s = .next t ∧ RespondedWith v t
            ∧ Played (attemptActs s.cfg addr false true fs ++ [.read addr false v]) rest s t
            ∧ t.session = s.session ∧ t.seqRegs = s.seqRegs ∧ HostPortsKept s t)
      ∧ ((∀ f ∈ fs, f.possible s.cfg false) →
        Answers (attemptActs s.cfg addr false false fs ++ [.write addr false v]) rest s →
          ∃ t, exec (.dpWrite addr v) s = .next t ∧ Responded statusOk t
            ∧ Played (attemptActs s.cfg addr false false fs ++ [.write addr false v]) rest s t
            ∧ t.session = s.session ∧ t.seqRegs = s.seqRegs ∧ HostPortsKept s t)
      ∧ ((∀ f ∈ fs, f.possible s.cfg false) →
        Answers (attemptActs s.cfg addr true false fs ++ [.write addr true v]) rest s →
          ∃ t, exec (.apWrite addr v) s = .next t ∧ Responded statusOk t
            ∧ Played (attemptActs s.cfg addr true false fs ++ [.write addr true v]) rest s t
            ∧ t.session = s.session ∧ t.seqRegs = s.seqRegs ∧ HostPortsKept s t)

/-- R201: `apRead` is the posted read, whose own data is dropped, and the read of the read buffer, each with its own budget of
attempts (D17). That an internal operation answers on the response port is log 27. -/
def Obligations.ApReadIsPosted : Prop :=
  ∀ (s : State) (fs gs : List Attempt) (addr : Addr4) (stale v : Word) (rest : List (Option Bool)),
    Parked s → AckCodesDistinct s.cfg → fs.length < s.cfg.engine.maxAttempts →
      gs.length < s.cfg.engine.maxAttempts → (∀ f ∈ fs, f.possible s.cfg true) → (∀ g ∈ gs, g.possible s.cfg true) →
        let acts :=
          attemptActs s.cfg addr true true fs ++ [.read addr true stale]
            ++ attemptActs s.cfg s.cfg.engine.dpRdbuff false true gs ++ [.read s.cfg.engine.dpRdbuff false v]
        Answers acts rest s →
          ∃ t, exec (.apRead addr) s = .next t ∧ RespondedWith v t ∧ Played acts rest s t
            ∧ t.session = s.session ∧ t.seqRegs = s.seqRegs ∧ HostPortsKept s t

/-- R197 (b, d, e), R201, R309: `MAX_ATTEMPTS` failed attempts, each with its recovery action, the last included, end the
access with the code of the last attempt's kind; nothing of the session changes. For `apRead` that may be the posted read's
loop or, behind a posted read that succeeded, the read buffer's. That an internal operation answers on the response port is log
27. -/
def Obligations.ExhaustedAccessNamesLastFailure : Prop :=
  ∀ (s : State) (fs : List Attempt) (last : Attempt) (addr : Addr4) (v : Word) (rest : List (Option Bool)),
    Parked s → AckCodesDistinct s.cfg → fs.length = s.cfg.engine.maxAttempts → fs.getLast? = some last →
      ((∀ f ∈ fs, f.possible s.cfg true) →
        (Answers (attemptActs s.cfg addr false true fs) rest s →
          ∃ t, exec (.dpRead addr) s = .next t ∧ Responded last.code.toByte t
            ∧ Played (attemptActs s.cfg addr false true fs) rest s t ∧ t.session = s.session)
        ∧ (Answers (attemptActs s.cfg addr true true fs) rest s →
          ∃ t, exec (.apRead addr) s = .next t ∧ Responded last.code.toByte t
            ∧ Played (attemptActs s.cfg addr true true fs) rest s t ∧ t.session = s.session)
        ∧ ∀ (gs : List Attempt) (stale : Word), gs.length < s.cfg.engine.maxAttempts →
          (∀ g ∈ gs, g.possible s.cfg true) →
            let acts :=
              attemptActs s.cfg addr true true gs ++ [.read addr true stale]
                ++ attemptActs s.cfg s.cfg.engine.dpRdbuff false true fs
            Answers acts rest s →
              ∃ t, exec (.apRead addr) s = .next t ∧ Responded last.code.toByte t ∧ Played acts rest s t
                ∧ t.session = s.session)
      ∧ ((∀ f ∈ fs, f.possible s.cfg false) →
        (Answers (attemptActs s.cfg addr false false fs) rest s →
          ∃ t, exec (.dpWrite addr v) s = .next t ∧ Responded last.code.toByte t
            ∧ Played (attemptActs s.cfg addr false false fs) rest s t ∧ t.session = s.session)
        ∧ (Answers (attemptActs s.cfg addr true false fs) rest s →
          ∃ t, exec (.apWrite addr v) s = .next t ∧ Responded last.code.toByte t
            ∧ Played (attemptActs s.cfg addr true false fs) rest s t ∧ t.session = s.session))

/-- R197 (a), R102, R201, R202: whatever the line shows, an access sends at most `MAX_ATTEMPTS` frames of at most 47 pulses with
as many recovery frames, twice that for `apRead`. -/
def Obligations.EveryAccessIsBounded : Prop :=
  ∀ (s t : State) (addr : Addr4) (v : Word), Parked s →
    (exec (.dpRead addr) s = .next t ∨ exec (.dpWrite addr v) s = .next t ∨ exec (.apWrite addr v) s = .next t →
      ∃ es, t.trace = s.trace ++ es ∧ pulses es ≤ 94 * s.cfg.engine.maxAttempts)
    ∧ (exec (.apRead addr) s = .next t →
      ∃ es, t.trace = s.trace ++ es ∧ pulses es ≤ 188 * s.cfg.engine.maxAttempts)

/-! ### Power-up and memory words -/

/-- R220: `powerUp` clears the sticky errors, writes the request once, and polls until one read shows both acknowledge bits; a
poll whose read fails did not show them (D18, D23); polls that never show both in one read run out: `E_TIMEOUT` after
`POWERUP_POLL_MAX` of them. That an internal operation answers on the response port is log 27. -/
def Obligations.PowerUpPollsBothBits : Prop :=
  ∀ (s : State) (ps : List DpPoll) (rest : List (Option Bool)), Parked s → 1 ≤ s.cfg.engine.maxAttempts →
    Answers (powerActs s.cfg ps) rest s →
      (PowersUp s.cfg ps →
        ∃ t, exec .powerUp s = .next t ∧ Responded statusOk t ∧ Played (powerActs s.cfg ps) rest s t
          ∧ t.session = s.session ∧ t.seqRegs = { s.seqRegs with pollsLeft := t.seqRegs.pollsLeft }
          ∧ HostPortsKept s t)
      ∧ (NeverPowers s.cfg ps →
        ∃ t, exec .powerUp s = .next t ∧ Responded 0x05#8 t ∧ Played (powerActs s.cfg ps) rest s t
          ∧ t.session = s.session)

/-- R221, R226, R227: the memory-access port prepared, a memory word read and a memory word written, each transaction in the
rule's order. That an internal operation answers on the response port is log 27. -/
def Obligations.MemoryAccessCompletes : Prop :=
  ∀ (s : State) (addr stale v : Word) (rest : List (Option Bool)), Parked s → 1 ≤ s.cfg.engine.maxAttempts →
    (Answers (memApActs s.cfg) rest s →
      ∃ t, exec .memApInit s = .next t ∧ Responded statusOk t ∧ Played (memApActs s.cfg) rest s t
        ∧ t.session = s.session ∧ t.seqRegs = s.seqRegs ∧ HostPortsKept s t)
    ∧ (wordAligned addr = true → Answers (memReadActs s.cfg addr stale v) rest s →
      ∃ t, exec (.readWord addr) s = .next t ∧ RespondedWith v t ∧ Played (memReadActs s.cfg addr stale v) rest s t
        ∧ t.session = s.session ∧ t.seqRegs = s.seqRegs ∧ HostPortsKept s t)
    ∧ (wordAligned addr = true → Answers (memWriteActs s.cfg addr v) rest s →
      ∃ t, exec (.writeWord addr v) s = .next t ∧ Responded statusOk t ∧ Played (memWriteActs s.cfg addr v) rest s t
        ∧ t.session = s.session ∧ t.seqRegs = s.seqRegs ∧ HostPortsKept s t)

/-! ### Connection Sequencer -/

/-- R170, R171, R341: `connect` from any state: by the dormant wake, or behind a failed identification read by line reset and
protocol select; then power-up and the memory-access port; only then Connected, with the code in `IDCODE_REG` and in the
response. More than 8 opening cycles of the wake are high by log 15. -/
def Obligations.ConnectCompletes : Prop :=
  ∀ (s : State) (id : Word) (ident : List Act) (vs : List DpPoll) (rest : List (Option Bool)),
    1 ≤ s.cfg.engine.maxAttempts → Identifies s.cfg id ident → PowersUp s.cfg vs →
      Answers (ident ++ attachActs s.cfg vs) rest s →
        ∃ t, exec .connect s = .next t ∧ RespondedWith id t ∧ Played (ident ++ attachActs s.cfg vs) rest s t
          ∧ t.session
              = { s.session with driveState := .driven, connectionState := .connected, lock := false, idcodeReg := id }
          ∧ HostPortsKept s t

/-- R170, R308: neither procedure gives a valid code: `E_CONNECT`, Disconnected. That the stored code is kept while
Disconnected is the model's reading (log 23). More than 8 opening cycles of the wake are high by log 15. -/
def Obligations.ConnectFailsWithoutTarget : Prop :=
  ∀ (s : State) (first second : List Act) (rest : List (Option Bool)),
    1 ≤ s.cfg.engine.maxAttempts → IdFails s.cfg first → IdFails s.cfg second →
      let acts := .send (wakeBits s.cfg) :: first ++ [.send (resetBits s.cfg), .send (selectBits s.cfg)] ++ second
      Answers acts rest s →
        ∃ t, exec .connect s = .next t ∧ Responded 0x0E#8 t ∧ Played acts rest s t
          ∧ t.session = { s.session with driveState := .driven, connectionState := .disconnected, lock := false }

/-- R170, R308: a power-up that times out inside `connect` keeps its own code, and the session stays Disconnected. More than 8
opening cycles of the wake are high by log 15. -/
def Obligations.ConnectKeepsPowerUpError : Prop :=
  ∀ (s : State) (id : Word) (ident : List Act) (vs : List DpPoll) (rest : List (Option Bool)),
    1 ≤ s.cfg.engine.maxAttempts → Identifies s.cfg id ident → NeverPowers s.cfg vs →
      Answers (ident ++ powerActs s.cfg vs) rest s →
        ∃ t, exec .connect s = .next t ∧ Responded 0x05#8 t ∧ Played (ident ++ powerActs s.cfg vs) rest s t
          ∧ t.session.connectionState = .disconnected

/-- R172: `disconnect` sends a line reset and marks Disconnected, from either state; the reset pin and `IDCODE_REG` keep. -/
def Obligations.DisconnectEffect : Prop :=
  (∀ c : Command, c.op = 0x11#8 → decode (.port c) = .ok .disconnect)
  ∧ ∀ s : State, Quiet s →
    ∃ t, exec .disconnect s = .next t ∧ Responded statusOk t
      ∧ t.trace = s.trace ++ entryTurn s ++ lineResetEvents s.cfg
      ∧ t.session = { s.session with driveState := .driven, connectionState := .disconnected } ∧ Parked t
      ∧ t.pins.nreset = s.pins.nreset ∧ t.inputs = s.inputs ∧ t.seqRegs = s.seqRegs ∧ t.cfg = s.cfg
      ∧ HostPortsKept s t

/-- R173: `isConnected`: false without touching the wire when the flag is down; true with the code stored when the
identification read is valid; false and Disconnected when it is not, the stored code kept (the model's reading, log 23). It
never upgrades. -/
def Obligations.IsConnectedEffect : Prop :=
  ∀ (s : State) (rest : List (Option Bool)),
    (s.session.connectionState = .disconnected →
      ∃ t, exec .isConnected s = .next t ∧ RespondedWith 0#32 t ∧ OnlyResponded s t)
    ∧ (∀ id, s.session.connectionState = .connected → Parked s → 1 ≤ s.cfg.engine.maxAttempts →
        deadIdcode id = false → Answers [.read s.cfg.engine.dpIdcode false id] rest s →
          ∃ t, exec .isConnected s = .next t ∧ RespondedWith 1#32 t
            ∧ Played [.read s.cfg.engine.dpIdcode false id] rest s t
            ∧ t.session = { s.session with idcodeReg := id } ∧ t.seqRegs = s.seqRegs ∧ HostPortsKept s t)
    ∧ ∀ failed, s.session.connectionState = .connected → Parked s → 1 ≤ s.cfg.engine.maxAttempts →
        IdFails s.cfg failed → Answers failed rest s →
          ∃ t, exec .isConnected s = .next t ∧ RespondedWith 0#32 t ∧ Played failed rest s t
            ∧ t.session = { s.session with connectionState := .disconnected } ∧ t.seqRegs = s.seqRegs
            ∧ HostPortsKept s t

/-- R174: `resetTarget` with a reset pin: assert, hold, release, hold, then `connect`; no clock pulse between the two pin
writes; the pin ends released. More than 8 opening cycles of the wake are high by log 15. -/
def Obligations.ResetTargetCompletes : Prop :=
  ∀ (s : State) (id : Word) (ident : List Act) (vs : List DpPoll) (rest : List (Option Bool)),
    s.cfg.link.hasNreset = true → 1 ≤ s.cfg.engine.maxAttempts → Identifies s.cfg id ident → PowersUp s.cfg vs →
      let acts :=
        [.pin true, .pause .resetAssert, .pin false, .pause .resetRelease] ++ ident ++ attachActs s.cfg vs
      Answers acts rest s →
        ∃ t, exec .resetTarget s = .next t ∧ RespondedWith id t ∧ t.trace = s.trace ++ actEvents s.cfg acts
          ∧ t.inputs = { s.inputs with line := rest } ∧ Parked t ∧ t.cfg = s.cfg
          ∧ t.pins.nreset = !s.cfg.wire.nresetActiveLevel
          ∧ t.session
              = { s.session with driveState := .driven, connectionState := .connected, lock := false, idcodeReg := id }
          ∧ HostPortsKept s t

/-! ### Flash Programming Engine -/

/-- R239, R240: the ready wait ends with the poll that completes `READY_CONSECUTIVE` ready reads in a row, a busy read or a
read that fails starting the run again (D23), one delay between two polls; a budget of polls without such a run, one ready read
on the last poll included, is `E_TIMEOUT`. That an internal operation answers on the response port is log 27. -/
def Obligations.ReadyWaitOutcomes : Prop :=
  ∀ (s : State) (timeoutMs : Word) (ps : List Poll) (rest : List (Option Bool)), Parked s →
    validConfig s.cfg = true → NvmcAligned s.cfg → Answers (readyPolls s.cfg ps) rest s →
      (Settles s.cfg timeoutMs.toNat ps →
        ∃ t, exec (.waitControllerReady timeoutMs) s = .next t ∧ Responded statusOk t
          ∧ Played (readyPolls s.cfg ps) rest s t ∧ t.session = s.session
          ∧ t.seqRegs = { s.seqRegs with pollsLeft := t.seqRegs.pollsLeft, readyRun := t.seqRegs.readyRun }
          ∧ HostPortsKept s t)
      ∧ (NeverSettles s.cfg timeoutMs.toNat ps →
        ∃ t, exec (.waitControllerReady timeoutMs) s = .next t ∧ Responded 0x05#8 t
          ∧ Played (readyPolls s.cfg ps) rest s t ∧ t.session = s.session
          ∧ t.seqRegs = { s.seqRegs with pollsLeft := t.seqRegs.pollsLeft, readyRun := t.seqRegs.readyRun }
          ∧ HostPortsKept s t)

/-- R241: a mode switch is one write and one read-back; it is `Ok` exactly when the read-back shows the mode, else `E_MODE`.
That an internal operation answers on the response port is log 27. -/
def Obligations.ModeSwitchReadsBack : Prop :=
  ∀ (s : State) (m : NvmcMode) (back : Word × Word) (rest : List (Option Bool)), Parked s →
    1 ≤ s.cfg.engine.maxAttempts → NvmcAligned s.cfg → Answers (modeActs s.cfg m back) rest s →
      ∃ t, exec (.setControllerMode m) s = .next t ∧ Played (modeActs s.cfg m back) rest s t
        ∧ (ShowsMode s.cfg m back → Responded statusOk t) ∧ (¬ ShowsMode s.cfg m back → Responded 0x0A#8 t)
        ∧ t.session = s.session ∧ t.seqRegs = s.seqRegs ∧ HostPortsKept s t

/-- R243: a page erase of any address in range: the aligned page, the whole sequence of the rule, ReadOnly restored. -/
def Obligations.ErasePageCompletes : Prop :=
  ∀ (s : State) (address : Word) (k : EraseTalk) (rest : List (Option Bool)), Parked s → validConfig s.cfg = true →
    NvmcAligned s.cfg → s.cfg.flash.flashBase ≤ address.toNat →
      address.toNat - s.cfg.flash.flashBase < s.cfg.flash.flashSize → k.good s.cfg →
        Answers (eraseActs s.cfg (alignDown address s.cfg.flash.pageSize) k) rest s →
          ∃ t, exec (.erasePage address) s = .next t ∧ Responded statusOk t
            ∧ Played (eraseActs s.cfg (alignDown address s.cfg.flash.pageSize) k) rest s t ∧ t.session = s.session
            ∧ t.seqRegs = { s.seqRegs with pollsLeft := t.seqRegs.pollsLeft, readyRun := t.seqRegs.readyRun }
            ∧ HostPortsKept s t

/-- R243, R242: the first sample that is not erased ends the erase with `E_ERASE_VERIFY`; later samples are not read, the mode is
restored, and what the restoring read-back shows does not change the code. -/
def Obligations.EraseSampleFails : Prop :=
  ∀ (s : State) (address : Word) (k : EraseTalk) (before : List (Word × Word)) (p : Word × Word)
    (rest : List (Option Bool)), Parked s → validConfig s.cfg = true → NvmcAligned s.cfg →
      s.cfg.flash.flashBase ≤ address.toNat → address.toNat - s.cfg.flash.flashBase < s.cfg.flash.flashSize →
        Settles s.cfg s.cfg.flash.readyTimeoutMs k.before → ShowsMode s.cfg .erase k.into →
          Settles s.cfg s.cfg.flash.erasePageTimeoutMs k.after → k.samples = before ++ [p] →
            k.samples.length ≤ s.cfg.flash.eraseVerifyOffsets.length →
              (∀ q ∈ before, q.2 = s.cfg.flash.erasedWord) → p.2 ≠ s.cfg.flash.erasedWord →
                Answers (eraseActs s.cfg (alignDown address s.cfg.flash.pageSize) k) rest s →
                  ∃ t, exec (.erasePage address) s = .next t ∧ Responded 0x0B#8 t
                    ∧ Played (eraseActs s.cfg (alignDown address s.cfg.flash.pageSize) k) rest s t
                    ∧ t.session = s.session

/-- R242, R240, R304, R316: a ready wait that times out ends the operation with `E_TIMEOUT`, whatever the restoring read-back
shows, and ReadOnly is restored before the answer: an erase whose first wait times out has changed no mode and triggered
nothing, and still restores it (D24); a wait behind the trigger of a page erase or of erase-all, behind a flash word, and the
first wait of a buffered write are the others. -/
def Obligations.TimeoutStillRestoresMode : Prop :=
  ∀ (s : State) (ps : List Poll) (back : Word × Word) (rest : List (Option Bool)),
    Parked s → validConfig s.cfg = true → NvmcAligned s.cfg →
      let timesOut (i : Instr) (acts : List Act) : Prop :=
        passesChecks s.cfg i → Answers (acts ++ modeActs s.cfg .readOnly back) rest s →
          ∃ t, exec i s = .next t ∧ Responded 0x05#8 t ∧ Played (acts ++ modeActs s.cfg .readOnly back) rest s t
            ∧ t.session = s.session
      (NeverSettles s.cfg s.cfg.flash.readyTimeoutMs ps →
        (∀ address, timesOut (.erasePage address) (readyPolls s.cfg ps)) ∧ timesOut .eraseAll (readyPolls s.cfg ps))
      ∧ (∀ (before : List Poll) (into : Word × Word), Settles s.cfg s.cfg.flash.readyTimeoutMs before →
          ShowsMode s.cfg .erase into →
            let started := readyPolls s.cfg before ++ modeActs s.cfg .erase into
            (NeverSettles s.cfg s.cfg.flash.erasePageTimeoutMs ps → ∀ address,
              timesOut (.erasePage address)
                (started ++ memWriteActs s.cfg s.cfg.flash.nvmcErasePage (alignDown address s.cfg.flash.pageSize)
                  ++ [.pause .eraseSettle] ++ readyPolls s.cfg ps))
            ∧ (NeverSettles s.cfg s.cfg.flash.eraseAllTimeoutMs ps →
              timesOut .eraseAll
                (started ++ memWriteActs s.cfg s.cfg.flash.nvmcEraseAll 1#32 ++ [.pause .eraseAllSettle]
                  ++ readyPolls s.cfg ps)))
      ∧ (NeverSettles s.cfg s.cfg.flash.writeWordTimeoutMs ps →
          (∀ (address data : Word) (into : Word × Word), ShowsMode s.cfg .write into →
            timesOut (.flashWriteWord address data)
              (modeActs s.cfg .write into ++ memWriteActs s.cfg address data ++ readyPolls s.cfg ps))
          ∧ ∀ (address length : Word) (k : WriteTalk), ShowsMode s.cfg .write k.into →
            timesOut (.writeBuffer address length) (firstWaitActs s.cfg address length s.inputs.buffer k ps))

/-- R244, R248: a flash word write: mode, write, ready wait, mode restored; no read-back of the word, no range check. -/
def Obligations.FlashWriteWordCompletes : Prop :=
  ∀ (s : State) (address data : Word) (into back : Word × Word) (ps : List Poll) (rest : List (Option Bool)),
    Parked s → validConfig s.cfg = true → NvmcAligned s.cfg → wordAligned address = true →
      ShowsMode s.cfg .write into → Settles s.cfg s.cfg.flash.writeWordTimeoutMs ps →
        ShowsMode s.cfg .readOnly back →
          let acts :=
            modeActs s.cfg .write into ++ memWriteActs s.cfg address data ++ readyPolls s.cfg ps
              ++ modeActs s.cfg .readOnly back
          Answers acts rest s →
            ∃ t, exec (.flashWriteWord address data) s = .next t ∧ Responded statusOk t ∧ Played acts rest s t
              ∧ t.session = s.session
              ∧ t.seqRegs = { s.seqRegs with pollsLeft := t.seqRegs.pollsLeft, readyRun := t.seqRegs.readyRun }
              ∧ HostPortsKept s t

/-- R246: erase-all: the page erase's pattern with the whole-chip trigger and no samples. -/
def Obligations.EraseAllCompletes : Prop :=
  ∀ (s : State) (before after : List Poll) (into back : Word × Word) (rest : List (Option Bool)),
    Parked s → validConfig s.cfg = true → NvmcAligned s.cfg → Settles s.cfg s.cfg.flash.readyTimeoutMs before →
      ShowsMode s.cfg .erase into → Settles s.cfg s.cfg.flash.eraseAllTimeoutMs after →
        ShowsMode s.cfg .readOnly back →
          let acts :=
            readyPolls s.cfg before ++ modeActs s.cfg .erase into ++ memWriteActs s.cfg s.cfg.flash.nvmcEraseAll 1#32
              ++ [.pause .eraseAllSettle] ++ readyPolls s.cfg after ++ modeActs s.cfg .readOnly back
          Answers acts rest s →
            ∃ t, exec .eraseAll s = .next t ∧ Responded statusOk t ∧ Played acts rest s t ∧ t.session = s.session
              ∧ t.seqRegs = { s.seqRegs with pollsLeft := t.seqRegs.pollsLeft, readyRun := t.seqRegs.readyRun }
              ∧ HostPortsKept s t

/-- R245, R66: a buffered write of any span that fits the address space puts on the wire exactly the span's words as
`spanWord` says them, without the writer's loop: buffer bytes inside the span, memory's own bytes in a word that begins before
the span, erased bytes behind its end; with the periodic waits and reports, the closing ones, and ReadOnly restored. -/
def Obligations.WriteBufferWritesTheSpan : Prop :=
  ∀ (s : State) (address length : Word) (k : WriteTalk) (rest : List (Option Bool)), Parked s →
    validConfig s.cfg = true → NvmcAligned s.cfg → length ≠ 0#32 → address.toNat + length.toNat ≤ 2 ^ 32 →
      k.good s.cfg → Answers (bufferActs s.cfg address length s.inputs.buffer k) rest s →
        ∃ t, exec (.writeBuffer address length) s = .next t ∧ Responded statusOk t
          ∧ Played (bufferActs s.cfg address length s.inputs.buffer k) rest s t ∧ t.session = s.session

/-- R247: a firmware update of any span inside the flash: every page erased in ascending order with its report, the buffered
write, and with the verify flag the whole span read back, every word agreeing with the buffer, with its reports. That a span
that ends at 2^32 is read back whole is the model's choice (log 32). A size of 2^32 shows its low 32 bits in a report by log
9. -/
def Obligations.UpdateFirmwareCompletes : Prop :=
  ∀ (s : State) (start length : Word) (verify : Bool) (ks : List EraseTalk) (k : WriteTalk)
    (ws : List (Word × Word)) (rest : List (Option Bool)), Parked s → validConfig s.cfg = true → NvmcAligned s.cfg →
      length ≠ 0#32 → s.cfg.flash.flashBase ≤ start.toNat →
        start.toNat - s.cfg.flash.flashBase + length.toNat ≤ s.cfg.flash.flashSize →
          ks.length = pageCount s.cfg start length → (∀ e ∈ ks, e.good s.cfg) → k.good s.cfg →
            ws.length = spanWords start length →
              (∀ j p, ws[j]? = some p → VerifyAgrees start length s.inputs.buffer j p.2) →
                let acts :=
                  pagesActs s.cfg start (pageCount s.cfg start length) 0 ks
                    ++ bufferActs s.cfg start length s.inputs.buffer k
                    ++ (if verify then verifyActs s.cfg start length 0 0 ws else [])
                Answers acts rest s →
                  ∃ t, exec (.updateFirmware start length verify) s = .next t ∧ Responded statusOk t
                    ∧ Played acts rest s t ∧ t.session = s.session

/-- R247, R306: the first word read back that differs from the buffer in a byte of the span ends the update with
`E_WRITE_VERIFY`; later words are not read. For a span that ends at 2^32 this is the model's choice (log 32). A size of 2^32
shows its low 32 bits in a report by log 9. -/
def Obligations.UpdateFirmwareFindsMismatch : Prop :=
  ∀ (s : State) (start length : Word) (ks : List EraseTalk) (k : WriteTalk) (ws : List (Word × Word))
    (bad : Word × Word) (rest : List (Option Bool)), Parked s → validConfig s.cfg = true → NvmcAligned s.cfg →
      length ≠ 0#32 → s.cfg.flash.flashBase ≤ start.toNat →
        start.toNat - s.cfg.flash.flashBase + length.toNat ≤ s.cfg.flash.flashSize →
          ks.length = pageCount s.cfg start length → (∀ e ∈ ks, e.good s.cfg) → k.good s.cfg →
            ws.length < spanWords start length →
              (∀ j p, ws[j]? = some p → VerifyAgrees start length s.inputs.buffer j p.2) →
                ¬ VerifyAgrees start length s.inputs.buffer ws.length bad.2 →
                  let acts :=
                    pagesActs s.cfg start (pageCount s.cfg start length) 0 ks
                      ++ bufferActs s.cfg start length s.inputs.buffer k ++ verifyActs s.cfg start length 0 0 ws
                      ++ memReadActs s.cfg (spanAddr start ws.length) bad.1 bad.2
                  Answers acts rest s →
                    ∃ t, exec (.updateFirmware start length true) s = .next t ∧ Responded 0x0C#8 t
                      ∧ Played acts rest s t ∧ t.session = s.session

/-! ### Mass-Erase Engine -/

/-- R280: the scan takes the first matching index, or the fallback index when none matches; an index whose select or read fails
does not match (D30); it has no error result. That an internal operation answers on the response port is log 27. -/
def Obligations.ScanFindsControlPort : Prop :=
  ∀ (s : State) (ps : List Poll) (i : ApIndex) (rest : List (Option Bool)), Parked s →
    validConfig s.cfg = true → ScanFinds s.cfg ps i → Answers (scanActs s.cfg 0 ps) rest s →
      ∃ t, exec .findControlAccessPort s = .next t ∧ RespondedWith (i.setWidth 32) t
        ∧ Played (scanActs s.cfg 0 ps) rest s t ∧ t.session = { s.session with ctrlApIndex := i }
        ∧ t.seqRegs = { s.seqRegs with scan := t.seqRegs.scan } ∧ HostPortsKept s t

/-- R281, R282: the three outcomes of a mass erase that reached the device: idle and verified is `Ok`; idle and a sample not
erased, or the part still locked, is `E_MASS_ERASE_VERIFY`; never idle is `E_TIMEOUT`, with the control port left and the
session as it was. A status poll whose read fails did not read idle (D23). More than 8 opening cycles of the wake are high by
log 15. A count of 2^32 polls or more shows its low 32 bits in a report by log 9. -/
def Obligations.MassEraseOutcomes : Prop :=
  ∀ (s : State) (ap : ApIndex) (k : MassTalk) (rest : List (Option Bool)), Parked s → validConfig s.cfg = true →
    (k.reaches s.cfg ap → Answers (massActs s.cfg ap k) rest s →
      ∃ t, exec .massErase s = .next t ∧ Played (massActs s.cfg ap k) rest s t
        ∧ (k.verified s.cfg → Responded statusOk t) ∧ (¬ k.verified s.cfg → Responded 0x0D#8 t)
        ∧ t.session = { s.session with connectionState := .connected, idcodeReg := k.id, ctrlApIndex := ap })
    ∧ (ScanFinds s.cfg k.scan ap → StaysBusy s.cfg k.busy →
        k.busy.length = mpolls s.cfg s.cfg.ctrlAp.massEraseTimeoutMs →
          let acts :=
            massStartActs s.cfg ap k.scan
              ++ statusActs s.cfg (mpolls s.cfg s.cfg.ctrlAp.massEraseTimeoutMs) false 0 k.busy ++ massLeaveActs s.cfg
          Answers acts rest s →
            ∃ t, exec .massErase s = .next t ∧ Responded 0x05#8 t ∧ Played acts rest s t
              ∧ t.session = { s.session with ctrlApIndex := ap })

/-! ### Reset, errors, upcalls -/

/-- R340, R53: `linkInit` of a configuration that meets every constraint: the values of R53's table, no event, the target not
touched; `NRESET` released when there is a pin. What R53 calls unspecified is left open (log 28). -/
def Obligations.LinkInitCompletes : Prop :=
  ∀ (a d : Word) (s : State), ConfigConstraints s.inputs.config →
    ∃ t, exec (.linkInit a d) s = .next t ∧ Responded statusOk t ∧ t.cfg = s.inputs.config ∧ t.trace = []
      ∧ t.pins.swclk = false ∧ t.pins.swdioOut = true ∧ t.pins.swdioOe = true
      ∧ t.pins.nreset
          = (if s.inputs.config.link.hasNreset then !s.inputs.config.wire.nresetActiveLevel else s.pins.nreset)
      ∧ t.session.driveState = .driven ∧ t.session.connectionState = .disconnected ∧ t.session.lock = false
      ∧ t.session.busy = s.session.busy ∧ t.session.op = s.session.op ∧ t.inputs = s.inputs ∧ HostPortsKept s t

/-- R340: the block's check of a configuration is the rule's list of constraints. -/
def Obligations.ConfigCheckIsR340 : Prop :=
  ∀ p : Params, validConfig p = true ↔ ConfigConstraints p

/-- R305, R340, R321, R119: every precondition error, the refusal of a code at the command port included: its error code, no
event, no pin, no state of the block. -/
def Obligations.PreconditionErrorsTouchNothing : Prop :=
  ∀ (s : State) (a v n : Word) (verify : Bool),
    (wordAligned a = false →
      (∃ t, exec (.readWord a) s = .next t ∧ Responded 0x06#8 t ∧ OnlyResponded s t)
      ∧ (∃ t, exec (.writeWord a v) s = .next t ∧ Responded 0x06#8 t ∧ OnlyResponded s t)
      ∧ ∃ t, exec (.flashWriteWord a v) s = .next t ∧ Responded 0x06#8 t ∧ OnlyResponded s t)
    ∧ (a.toNat < s.cfg.flash.flashBase ∨ s.cfg.flash.flashBase + s.cfg.flash.flashSize ≤ a.toNat →
      ∃ t, exec (.erasePage a) s = .next t ∧ Responded 0x07#8 t ∧ OnlyResponded s t)
    ∧ (n ≠ 0#32 → 2 ^ 32 < a.toNat + n.toNat →
      ∃ t, exec (.writeBuffer a n) s = .next t ∧ Responded 0x07#8 t ∧ OnlyResponded s t)
    ∧ (n ≠ 0#32 →
        a.toNat < s.cfg.flash.flashBase ∨ s.cfg.flash.flashBase + s.cfg.flash.flashSize < a.toNat + n.toNat →
      ∃ t, exec (.updateFirmware a n verify) s = .next t ∧ Responded 0x07#8 t ∧ OnlyResponded s t)
    ∧ (¬ ConfigConstraints s.inputs.config →
      ∃ t, exec (.linkInit a v) s = .next t ∧ Responded 0x08#8 t ∧ OnlyResponded s t)
    ∧ (s.cfg.link.hasNreset = false →
      ∃ t, exec .resetTarget s = .next t ∧ Responded 0x09#8 t ∧ OnlyResponded s t)
    ∧ ∀ (c : HostCall) (rest : List HostCall) (cmd : Command),
        s.inputs.stream = c :: rest → s.session.busy = false → c.request = .port cmd → externalOp cmd.op = false →
          ∃ t, step s = .next t ∧ Responded 0x09#8 t ∧ t.trace = s.trace ∧ t.pins = s.pins ∧ t.session = s.session
            ∧ t.linkRegs = s.linkRegs ∧ t.seqRegs = s.seqRegs ∧ t.cfg = s.cfg

/-- R245, R247, R321: a span of no bytes is `Ok` and touches nothing, whatever its address. -/
def Obligations.EmptySpanTouchesNothing : Prop :=
  ∀ (s : State) (a : Word) (verify : Bool),
    (∃ t, exec (.writeBuffer a 0#32) s = .next t ∧ Responded statusOk t ∧ OnlyResponded s t)
    ∧ ∃ t, exec (.updateFirmware a 0#32 verify) s = .next t ∧ Responded statusOk t ∧ OnlyResponded s t

/-- R126: a progress upcall: the trace entry always, the port only with a callback; the label codes. That the pulse on the port
lasts until the next call is taken in is the model's choice (log 16). -/
def Obligations.ProgressUpcall : Prop :=
  (∀ (done total : Word) (label : ProgLabel) (s : State),
      (progress done total label s).trace = s.trace ++ [.prog done total label]
      ∧ (s.inputs.callback = true →
          (progress done total label s).ports
            = { s.ports with progValid := true, progDone := done, progTotal := total, progLabel := label })
      ∧ (s.inputs.callback = false → (progress done total label s).ports = s.ports)
      ∧ { progress done total label s with trace := s.trace, ports := s.ports } = s)
  ∧ (∀ (s : State) (c : HostCall) (rest : List HostCall), (s.accept c rest).ports.progValid = false)
  ∧ ProgLabel.erase.code = 0#2 ∧ ProgLabel.write.code = 1#2 ∧ ProgLabel.verify.code = 2#2
  ∧ ProgLabel.massErase.code = 3#2

/-! ### Whole-machine rules -/

/-- R28, R38, R64, R358: no instruction but `linkInit` changes the configuration; the trace only grows; the host's buffer, its
callback and its pending calls are never written; bits are only taken off the front of the line. -/
def Obligations.OnlyLinkInitReconfigures : Prop :=
  ∀ (i : Instr) (s t : State), loadsConfig i = false → exec i s = .next t →
    Continues s t ∧ ∃ n, t.inputs.line = s.inputs.line.drop n

/-- R24, R30, R32, R33, R34, R175, R317: `ConnectionState` and `IDCODE_REG` move only in the Connection Sequencer's operations, in
`massErase` and in `linkInit`; `CTRL_AP_INDEX` only in the scan, in `massErase` and in `linkInit`; `NRESET` only in
`resetTarget` and `linkInit`; `BUSY` and `OP` in none. An exhausted retry loop moves none of them. -/
def Obligations.SessionMovesOnlyWhereStated : Prop :=
  ∀ (i : Instr) (s t : State), exec i s = .next t →
    (movesSession i = false →
      t.session.connectionState = s.session.connectionState ∧ t.session.idcodeReg = s.session.idcodeReg)
    ∧ (writesCtrlApIndex i = false → t.session.ctrlApIndex = s.session.ctrlApIndex)
    ∧ (writesNreset i = false → t.pins.nreset = s.pins.nreset)
    ∧ t.session.busy = s.session.busy ∧ t.session.op = s.session.op

/-- R36, R123, R125, R126: the sequencers' working registers, the buffer port and the progress port are used by the operations
that have them, and by no other. -/
def Obligations.WorkingRegistersAndPortsFrame : Prop :=
  ∀ (i : Instr) (s t : State), exec i s = .next t →
    (usesSeqRegs i = false → t.seqRegs = s.seqRegs)
    ∧ (readsBuffer i = false → t.ports.bufIndex = s.ports.bufIndex ∧ t.ports.bufByte = s.ports.bufByte)
    ∧ (reportsProgress i = false →
      t.ports.progValid = s.ports.progValid ∧ t.ports.progDone = s.ports.progDone
        ∧ t.ports.progTotal = s.ports.progTotal ∧ t.ports.progLabel = s.ports.progLabel)

/-- R37, R29: every instruction but the ones whose own effect is to release the line leaves it parked; and after any transfer,
frame or fixed sequence it is driven wherever it was before. That the wire rows are transfers, frames and sequences is the
model's choice (log 1). -/
def Obligations.LineIsParkedAfterwards : Prop :=
  (∀ (i : Instr) (s t : State), mayRelease i = false → Parked s → exec i s = .next t → Parked t)
  ∧ ∀ (i : Instr) (s t : State), ((transferOf i).isSome ∨ isFrameRow i = true ∨ (sequenceOf s.cfg i).isSome) → Quiet s →
      exec i s = .next t → Parked t

/-- R37, R30, R340 as one invariant that every step keeps, whatever the host asks and whatever the line shows: the clock low, the
flag and the output enable equal, the lock free, `BUSY` = 0, a valid configuration, a Connected session with a code that is not
dead, the lent buffers canonical (the last is the model's own, log 11). -/
def Obligations.EveryStepKeepsConsistent : Prop :=
  ∀ s t : State, Consistent s → step s = .next t → Consistent t

/-- R53, R37: the invariant holds at reset, which has the values of R53's table. That its configuration is a valid one rests on
the configuration the model takes at reset (logs 7 and 8); the values R53 leaves unspecified are the model's (log 6), and this
says nothing of them. -/
def Obligations.ResetIsConsistent : Prop :=
  Consistent State.reset ∧ State.reset.pins.swclk = false ∧ State.reset.pins.swdioOut = true
    ∧ State.reset.pins.swdioOe = true ∧ State.reset.pins.nreset = !State.reset.cfg.wire.nresetActiveLevel
    ∧ State.reset.session.driveState = .driven ∧ State.reset.session.connectionState = .disconnected
    ∧ State.reset.session.lock = false ∧ State.reset.session.busy = false ∧ State.reset.trace = []
    ∧ Sys2Proof.core.reset = State.reset

/-! ### The target contract -/

/-- R198, R85, R87, R94: on the reference target, in step and acknowledging OK, `dpRead` of a Debug-Port register is one frame
and returns exactly that register's value. That the target answered as RT0 does is the premise, on the trace the block left
(log 18). That an internal operation answers on the response port is log 27. -/
def Obligations.ReferenceTargetAnswersDpRead : Prop :=
  ∀ (t0 : Rt0) (s t : State) (addr : Addr4), t0.par = s.cfg → t0.phase = .ready [] → t0.acks = [] → t0.ones = 0 →
    Parked s → 1 ≤ s.cfg.engine.maxAttempts → exec (.dpRead addr) s = .next t → AnsweredByRt0 t0 s t →
      let v := t0.dpValue (addr &&& 0xC#4)
      RespondedWith v t ∧ t.trace = s.trace ++ okReadEvents s.cfg addr false v (Sys2Proof.Machine.parity32 v)
        ∧ t.session = s.session

/-! ### Exit discipline -/

/-- R242, R316: however its body ends and whatever the line shows, an operation that switches the controller's mode ends, once its
precondition checks have passed, with a mode switch to ReadOnly, and is Ok only if that switch was. A switch into the mode that
does not take is `E_MODE`, whatever the restoring read-back shows; a body that succeeded and a restore that does not take is
`E_MODE` too (D24). That the switch, an internal operation, answers on the response port is log 27. -/
def Obligations.ModeIsRestoredOnEveryExitPath : Prop :=
  (∀ (i : Instr) (s : State), Parked s → passesChecks s.cfg i →
    ∃ u t, exec i s = .next t ∧ RestoredFrom u t ∧ Parked u ∧ Continues s u)
  ∧ ∀ (s : State) (back : Word × Word) (rest : List (Option Bool)),
      Parked s → validConfig s.cfg = true → NvmcAligned s.cfg →
        let fails (i : Instr) (acts : List Act) : Prop :=
          passesChecks s.cfg i → Answers acts rest s →
            ∃ t, exec i s = .next t ∧ Responded 0x0A#8 t ∧ Played acts rest s t ∧ t.session = s.session
        (∀ into, ¬ ShowsMode s.cfg .write into →
          let acts := modeActs s.cfg .write into ++ modeActs s.cfg .readOnly back
          (∀ address data, fails (.flashWriteWord address data) acts)
            ∧ ∀ address length, fails (.writeBuffer address length) acts)
        ∧ (∀ before into, Settles s.cfg s.cfg.flash.readyTimeoutMs before → ¬ ShowsMode s.cfg .erase into →
          let acts := readyPolls s.cfg before ++ modeActs s.cfg .erase into ++ modeActs s.cfg .readOnly back
          (∀ address, fails (.erasePage address) acts) ∧ fails .eraseAll acts)
        ∧ (¬ ShowsMode s.cfg .readOnly back →
          (∀ (address : Word) (k : EraseTalk), k.erases s.cfg → k.back = back →
            fails (.erasePage address) (eraseActs s.cfg (alignDown address s.cfg.flash.pageSize) k))
          ∧ (∀ (before after : List Poll) (into : Word × Word), Settles s.cfg s.cfg.flash.readyTimeoutMs before →
            ShowsMode s.cfg .erase into → Settles s.cfg s.cfg.flash.eraseAllTimeoutMs after →
              fails .eraseAll
                (readyPolls s.cfg before ++ modeActs s.cfg .erase into
                  ++ memWriteActs s.cfg s.cfg.flash.nvmcEraseAll 1#32 ++ [.pause .eraseAllSettle]
                  ++ readyPolls s.cfg after ++ modeActs s.cfg .readOnly back))
          ∧ (∀ (address data : Word) (into : Word × Word) (ps : List Poll), ShowsMode s.cfg .write into →
            Settles s.cfg s.cfg.flash.writeWordTimeoutMs ps →
              fails (.flashWriteWord address data)
                (modeActs s.cfg .write into ++ memWriteActs s.cfg address data ++ readyPolls s.cfg ps
                  ++ modeActs s.cfg .readOnly back))
          ∧ ∀ (address length : Word) (k : WriteTalk), k.writes s.cfg → k.back = back →
            fails (.writeBuffer address length) (bufferActs s.cfg address length s.inputs.buffer k))
end

