-- ==== Sys2Proof/Laws/Bits.lean ====
section
/-! SUPPORT. Lengths and round trips of bit lists. -/

namespace Sys2Proof.Machine

@[simp] theorem lsbBits_length {w : Nat} (v : BitVec w) (n : Nat) : (lsbBits v n).length = n := by
  simp [lsbBits]

@[simp] theorem msbBits_length {w : Nat} (v : BitVec w) : (msbBits v).length = w := by
  simp [msbBits]

/-- Bit `i` of the natural number of a bit list is the list's entry `i`. -/
theorem testBit_bitsToNat (bs : List Bool) (i : Nat) : (bitsToNat bs).testBit i = bs.getD i false := by
  induction bs generalizing i with
  | nil => simp [bitsToNat]
  | cons b bs ih =>
    have hdiv : (b.toNat + 2 * bitsToNat bs) / 2 = bitsToNat bs := by cases b <;> (simp; try omega)
    cases i with
    | zero => cases b <;> simp [bitsToNat, Nat.testBit_zero]
    | succ i => rw [bitsToNat, Nat.testBit_succ, hdiv, ih]; simp

/-- Bit `i` of a value read from a bit list is the list's entry `i`. -/
theorem getLsbD_ofLsbBits (w : Nat) (bs : List Bool) (i : Nat) :
    (ofLsbBits w bs).getLsbD i = (decide (i < w) && bs.getD i false) := by
  simp [ofLsbBits, BitVec.getLsbD_ofNat, testBit_bitsToNat]

/-- Reading back the bits of a value gives the value (R11). -/
@[simp] theorem ofLsbBits_lsbBits {w : Nat} (v : BitVec w) : ofLsbBits w (lsbBits v w) = v := by
  apply BitVec.eq_of_getLsbD_eq
  intro i hi
  rw [getLsbD_ofLsbBits]
  simp [hi, lsbBits]

/-- Reading back the bits of a value that fits gives the value, extended. -/
theorem ofLsbBits_lsbBits_setWidth {w k : Nat} (v : BitVec w) :
    ofLsbBits k (lsbBits v w) = v.setWidth k := by
  apply BitVec.eq_of_getLsbD_eq
  intro i hi
  rw [getLsbD_ofLsbBits, BitVec.getLsbD_setWidth]
  by_cases hw : i < w
  · simp [hi, hw, lsbBits]
  · simp [hi, hw, lsbBits, BitVec.getLsbD_of_ge v i (by omega)]

/-- The bits of a value gathered from a list of the right length are the list. -/
theorem lsbBits_ofLsbBits {w : Nat} (bs : List Bool) (h : bs.length = w) : lsbBits (ofLsbBits w bs) w = bs := by
  apply List.ext_getElem (by simp [h])
  intro i h1 h2
  have hw : i < w := by simpa using h1
  have hb := getLsbD_ofLsbBits w bs i
  simp only [BitVec.getLsbD_eq_getElem hw, hw, decide_true, Bool.true_and] at hb
  simp [lsbBits, hw, hb, List.getD, h2]

/-- Sending an extended value sends the value's own bits. -/
@[simp] theorem lsbBits_setWidth {w k n : Nat} (v : BitVec w) (h : n ≤ k) :
    lsbBits (v.setWidth k) n = lsbBits v n := by
  apply List.ext_getElem (by simp)
  intro i h1 h2
  have hn : i < n := by simpa using h1
  simp [lsbBits, show i < k by omega]

/-- Sending a reversed word least significant bit first sends the word most significant bit first (R146). -/
@[simp] theorem lsbBits_bitReverse32 (v : Word) : lsbBits (bitReverse32 v) 32 = msbBits v :=
  lsbBits_ofLsbBits _ (by simp)

/-- The eight bits of a request byte in wire order (R104). -/
theorem lsbBits_requestByte (addr : Addr4) (isAP isRead : Bool) :
    lsbBits (requestByte addr isAP isRead) 8
      = [true, isAP, isRead, addr.getLsbD 2, addr.getLsbD 3, requestParity addr isAP isRead, false, true] :=
  lsbBits_ofLsbBits _ rfl

end Sys2Proof.Machine
end

