-- ==== Sys2Proof/Laws/State.lean ====
section
/-! SUPPORT. One lemma per field per update of State, all true by unfolding, so that no later proof unfolds a record update. -/

namespace Sys2Proof.Machine

@[simp] theorem mapPins_cfg (f : Pins → Pins) (s : State) : (s.mapPins f).cfg = s.cfg := rfl
@[simp] theorem mapPins_pins (f : Pins → Pins) (s : State) : (s.mapPins f).pins = f s.pins := rfl
@[simp] theorem mapPins_session (f : Pins → Pins) (s : State) : (s.mapPins f).session = s.session := rfl
@[simp] theorem mapPins_linkRegs (f : Pins → Pins) (s : State) : (s.mapPins f).linkRegs = s.linkRegs := rfl
@[simp] theorem mapPins_seqRegs (f : Pins → Pins) (s : State) : (s.mapPins f).seqRegs = s.seqRegs := rfl
@[simp] theorem mapPins_ports (f : Pins → Pins) (s : State) : (s.mapPins f).ports = s.ports := rfl
@[simp] theorem mapPins_inputs (f : Pins → Pins) (s : State) : (s.mapPins f).inputs = s.inputs := rfl
@[simp] theorem mapPins_draws (f : Pins → Pins) (s : State) : (s.mapPins f).draws = s.draws := rfl
@[simp] theorem mapPins_trace (f : Pins → Pins) (s : State) : (s.mapPins f).trace = s.trace := rfl

@[simp] theorem mapSession_cfg (f : Session → Session) (s : State) : (s.mapSession f).cfg = s.cfg := rfl
@[simp] theorem mapSession_pins (f : Session → Session) (s : State) : (s.mapSession f).pins = s.pins := rfl
@[simp] theorem mapSession_session (f : Session → Session) (s : State) : (s.mapSession f).session = f s.session := rfl
@[simp] theorem mapSession_linkRegs (f : Session → Session) (s : State) : (s.mapSession f).linkRegs = s.linkRegs := rfl
@[simp] theorem mapSession_seqRegs (f : Session → Session) (s : State) : (s.mapSession f).seqRegs = s.seqRegs := rfl
@[simp] theorem mapSession_ports (f : Session → Session) (s : State) : (s.mapSession f).ports = s.ports := rfl
@[simp] theorem mapSession_inputs (f : Session → Session) (s : State) : (s.mapSession f).inputs = s.inputs := rfl
@[simp] theorem mapSession_draws (f : Session → Session) (s : State) : (s.mapSession f).draws = s.draws := rfl
@[simp] theorem mapSession_trace (f : Session → Session) (s : State) : (s.mapSession f).trace = s.trace := rfl

@[simp] theorem mapLinkRegs_cfg (f : LinkRegs → LinkRegs) (s : State) : (s.mapLinkRegs f).cfg = s.cfg := rfl
@[simp] theorem mapLinkRegs_pins (f : LinkRegs → LinkRegs) (s : State) : (s.mapLinkRegs f).pins = s.pins := rfl
@[simp] theorem mapLinkRegs_session (f : LinkRegs → LinkRegs) (s : State) : (s.mapLinkRegs f).session = s.session := rfl
@[simp] theorem mapLinkRegs_linkRegs (f : LinkRegs → LinkRegs) (s : State) : (s.mapLinkRegs f).linkRegs = f s.linkRegs := rfl
@[simp] theorem mapLinkRegs_seqRegs (f : LinkRegs → LinkRegs) (s : State) : (s.mapLinkRegs f).seqRegs = s.seqRegs := rfl
@[simp] theorem mapLinkRegs_ports (f : LinkRegs → LinkRegs) (s : State) : (s.mapLinkRegs f).ports = s.ports := rfl
@[simp] theorem mapLinkRegs_inputs (f : LinkRegs → LinkRegs) (s : State) : (s.mapLinkRegs f).inputs = s.inputs := rfl
@[simp] theorem mapLinkRegs_draws (f : LinkRegs → LinkRegs) (s : State) : (s.mapLinkRegs f).draws = s.draws := rfl
@[simp] theorem mapLinkRegs_trace (f : LinkRegs → LinkRegs) (s : State) : (s.mapLinkRegs f).trace = s.trace := rfl

@[simp] theorem mapSeqRegs_cfg (f : SeqRegs → SeqRegs) (s : State) : (s.mapSeqRegs f).cfg = s.cfg := rfl
@[simp] theorem mapSeqRegs_pins (f : SeqRegs → SeqRegs) (s : State) : (s.mapSeqRegs f).pins = s.pins := rfl
@[simp] theorem mapSeqRegs_session (f : SeqRegs → SeqRegs) (s : State) : (s.mapSeqRegs f).session = s.session := rfl
@[simp] theorem mapSeqRegs_linkRegs (f : SeqRegs → SeqRegs) (s : State) : (s.mapSeqRegs f).linkRegs = s.linkRegs := rfl
@[simp] theorem mapSeqRegs_seqRegs (f : SeqRegs → SeqRegs) (s : State) : (s.mapSeqRegs f).seqRegs = f s.seqRegs := rfl
@[simp] theorem mapSeqRegs_ports (f : SeqRegs → SeqRegs) (s : State) : (s.mapSeqRegs f).ports = s.ports := rfl
@[simp] theorem mapSeqRegs_inputs (f : SeqRegs → SeqRegs) (s : State) : (s.mapSeqRegs f).inputs = s.inputs := rfl
@[simp] theorem mapSeqRegs_draws (f : SeqRegs → SeqRegs) (s : State) : (s.mapSeqRegs f).draws = s.draws := rfl
@[simp] theorem mapSeqRegs_trace (f : SeqRegs → SeqRegs) (s : State) : (s.mapSeqRegs f).trace = s.trace := rfl

@[simp] theorem mapPorts_cfg (f : Ports → Ports) (s : State) : (s.mapPorts f).cfg = s.cfg := rfl
@[simp] theorem mapPorts_pins (f : Ports → Ports) (s : State) : (s.mapPorts f).pins = s.pins := rfl
@[simp] theorem mapPorts_session (f : Ports → Ports) (s : State) : (s.mapPorts f).session = s.session := rfl
@[simp] theorem mapPorts_linkRegs (f : Ports → Ports) (s : State) : (s.mapPorts f).linkRegs = s.linkRegs := rfl
@[simp] theorem mapPorts_seqRegs (f : Ports → Ports) (s : State) : (s.mapPorts f).seqRegs = s.seqRegs := rfl
@[simp] theorem mapPorts_ports (f : Ports → Ports) (s : State) : (s.mapPorts f).ports = f s.ports := rfl
@[simp] theorem mapPorts_inputs (f : Ports → Ports) (s : State) : (s.mapPorts f).inputs = s.inputs := rfl
@[simp] theorem mapPorts_draws (f : Ports → Ports) (s : State) : (s.mapPorts f).draws = s.draws := rfl
@[simp] theorem mapPorts_trace (f : Ports → Ports) (s : State) : (s.mapPorts f).trace = s.trace := rfl

@[simp] theorem mapInputs_cfg (f : Inputs → Inputs) (s : State) : (s.mapInputs f).cfg = s.cfg := rfl
@[simp] theorem mapInputs_pins (f : Inputs → Inputs) (s : State) : (s.mapInputs f).pins = s.pins := rfl
@[simp] theorem mapInputs_session (f : Inputs → Inputs) (s : State) : (s.mapInputs f).session = s.session := rfl
@[simp] theorem mapInputs_linkRegs (f : Inputs → Inputs) (s : State) : (s.mapInputs f).linkRegs = s.linkRegs := rfl
@[simp] theorem mapInputs_seqRegs (f : Inputs → Inputs) (s : State) : (s.mapInputs f).seqRegs = s.seqRegs := rfl
@[simp] theorem mapInputs_ports (f : Inputs → Inputs) (s : State) : (s.mapInputs f).ports = s.ports := rfl
@[simp] theorem mapInputs_inputs (f : Inputs → Inputs) (s : State) : (s.mapInputs f).inputs = f s.inputs := rfl
@[simp] theorem mapInputs_draws (f : Inputs → Inputs) (s : State) : (s.mapInputs f).draws = s.draws := rfl
@[simp] theorem mapInputs_trace (f : Inputs → Inputs) (s : State) : (s.mapInputs f).trace = s.trace := rfl

@[simp] theorem setCfg_cfg (p : Params) (s : State) : (s.setCfg p).cfg = p := rfl
@[simp] theorem setCfg_pins (p : Params) (s : State) : (s.setCfg p).pins = s.pins := rfl
@[simp] theorem setCfg_session (p : Params) (s : State) : (s.setCfg p).session = s.session := rfl
@[simp] theorem setCfg_linkRegs (p : Params) (s : State) : (s.setCfg p).linkRegs = s.linkRegs := rfl
@[simp] theorem setCfg_seqRegs (p : Params) (s : State) : (s.setCfg p).seqRegs = s.seqRegs := rfl
@[simp] theorem setCfg_ports (p : Params) (s : State) : (s.setCfg p).ports = s.ports := rfl
@[simp] theorem setCfg_inputs (p : Params) (s : State) : (s.setCfg p).inputs = s.inputs := rfl
@[simp] theorem setCfg_draws (p : Params) (s : State) : (s.setCfg p).draws = s.draws := rfl
@[simp] theorem setCfg_trace (p : Params) (s : State) : (s.setCfg p).trace = s.trace := rfl

@[simp] theorem setTrace_cfg (t : List Event) (s : State) : (s.setTrace t).cfg = s.cfg := rfl
@[simp] theorem setTrace_pins (t : List Event) (s : State) : (s.setTrace t).pins = s.pins := rfl
@[simp] theorem setTrace_session (t : List Event) (s : State) : (s.setTrace t).session = s.session := rfl
@[simp] theorem setTrace_linkRegs (t : List Event) (s : State) : (s.setTrace t).linkRegs = s.linkRegs := rfl
@[simp] theorem setTrace_seqRegs (t : List Event) (s : State) : (s.setTrace t).seqRegs = s.seqRegs := rfl
@[simp] theorem setTrace_ports (t : List Event) (s : State) : (s.setTrace t).ports = s.ports := rfl
@[simp] theorem setTrace_inputs (t : List Event) (s : State) : (s.setTrace t).inputs = s.inputs := rfl
@[simp] theorem setTrace_draws (t : List Event) (s : State) : (s.setTrace t).draws = s.draws := rfl
@[simp] theorem setTrace_trace (t : List Event) (s : State) : (s.setTrace t).trace = t := rfl

@[simp] theorem drew_cfg (s : State) : (s.drew).cfg = s.cfg := rfl
@[simp] theorem drew_pins (s : State) : (s.drew).pins = s.pins := rfl
@[simp] theorem drew_session (s : State) : (s.drew).session = s.session := rfl
@[simp] theorem drew_linkRegs (s : State) : (s.drew).linkRegs = s.linkRegs := rfl
@[simp] theorem drew_seqRegs (s : State) : (s.drew).seqRegs = s.seqRegs := rfl
@[simp] theorem drew_ports (s : State) : (s.drew).ports = s.ports := rfl
@[simp] theorem drew_inputs (s : State) : (s.drew).inputs = s.inputs := rfl
@[simp] theorem drew_draws (s : State) : (s.drew).draws = s.draws + 1 := rfl
@[simp] theorem drew_trace (s : State) : (s.drew).trace = s.trace := rfl

@[simp] theorem emit_cfg (e : Event) (s : State) : (s.emit e).cfg = s.cfg := rfl
@[simp] theorem emit_pins (e : Event) (s : State) : (s.emit e).pins = s.pins := rfl
@[simp] theorem emit_session (e : Event) (s : State) : (s.emit e).session = s.session := rfl
@[simp] theorem emit_linkRegs (e : Event) (s : State) : (s.emit e).linkRegs = s.linkRegs := rfl
@[simp] theorem emit_seqRegs (e : Event) (s : State) : (s.emit e).seqRegs = s.seqRegs := rfl
@[simp] theorem emit_ports (e : Event) (s : State) : (s.emit e).ports = s.ports := rfl
@[simp] theorem emit_inputs (e : Event) (s : State) : (s.emit e).inputs = s.inputs := rfl
@[simp] theorem emit_draws (e : Event) (s : State) : (s.emit e).draws = s.draws := rfl
@[simp] theorem emit_trace (e : Event) (s : State) : (s.emit e).trace = s.trace ++ [e] := rfl

@[simp] theorem setConnection_cfg (c : ConnectionState) (s : State) : (s.setConnection c).cfg = s.cfg := rfl
@[simp] theorem setConnection_pins (c : ConnectionState) (s : State) : (s.setConnection c).pins = s.pins := rfl
@[simp] theorem setConnection_session (c : ConnectionState) (s : State) : (s.setConnection c).session = { s.session with connectionState := c } := rfl
@[simp] theorem setConnection_linkRegs (c : ConnectionState) (s : State) : (s.setConnection c).linkRegs = s.linkRegs := rfl
@[simp] theorem setConnection_seqRegs (c : ConnectionState) (s : State) : (s.setConnection c).seqRegs = s.seqRegs := rfl
@[simp] theorem setConnection_ports (c : ConnectionState) (s : State) : (s.setConnection c).ports = s.ports := rfl
@[simp] theorem setConnection_inputs (c : ConnectionState) (s : State) : (s.setConnection c).inputs = s.inputs := rfl
@[simp] theorem setConnection_draws (c : ConnectionState) (s : State) : (s.setConnection c).draws = s.draws := rfl
@[simp] theorem setConnection_trace (c : ConnectionState) (s : State) : (s.setConnection c).trace = s.trace := rfl

@[simp] theorem setLock_cfg (b : Bool) (s : State) : (s.setLock b).cfg = s.cfg := rfl
@[simp] theorem setLock_pins (b : Bool) (s : State) : (s.setLock b).pins = s.pins := rfl
@[simp] theorem setLock_session (b : Bool) (s : State) : (s.setLock b).session = { s.session with lock := b } := rfl
@[simp] theorem setLock_linkRegs (b : Bool) (s : State) : (s.setLock b).linkRegs = s.linkRegs := rfl
@[simp] theorem setLock_seqRegs (b : Bool) (s : State) : (s.setLock b).seqRegs = s.seqRegs := rfl
@[simp] theorem setLock_ports (b : Bool) (s : State) : (s.setLock b).ports = s.ports := rfl
@[simp] theorem setLock_inputs (b : Bool) (s : State) : (s.setLock b).inputs = s.inputs := rfl
@[simp] theorem setLock_draws (b : Bool) (s : State) : (s.setLock b).draws = s.draws := rfl
@[simp] theorem setLock_trace (b : Bool) (s : State) : (s.setLock b).trace = s.trace := rfl

@[simp] theorem clearPulses_cfg (s : State) : (s.clearPulses).cfg = s.cfg := rfl
@[simp] theorem clearPulses_pins (s : State) : (s.clearPulses).pins = s.pins := rfl
@[simp] theorem clearPulses_session (s : State) : (s.clearPulses).session = s.session := rfl
@[simp] theorem clearPulses_linkRegs (s : State) : (s.clearPulses).linkRegs = s.linkRegs := rfl
@[simp] theorem clearPulses_seqRegs (s : State) : (s.clearPulses).seqRegs = s.seqRegs := rfl
@[simp] theorem clearPulses_ports (s : State) : (s.clearPulses).ports = { s.ports with rspValid := false, progValid := false } := rfl
@[simp] theorem clearPulses_inputs (s : State) : (s.clearPulses).inputs = s.inputs := rfl
@[simp] theorem clearPulses_draws (s : State) : (s.clearPulses).draws = s.draws := rfl
@[simp] theorem clearPulses_trace (s : State) : (s.clearPulses).trace = s.trace := rfl

@[simp] theorem delay_cfg (p : DelayName) (s : State) : (delay p s).cfg = s.cfg := rfl
@[simp] theorem delay_pins (p : DelayName) (s : State) : (delay p s).pins = s.pins := rfl
@[simp] theorem delay_session (p : DelayName) (s : State) : (delay p s).session = s.session := rfl
@[simp] theorem delay_linkRegs (p : DelayName) (s : State) : (delay p s).linkRegs = s.linkRegs := rfl
@[simp] theorem delay_seqRegs (p : DelayName) (s : State) : (delay p s).seqRegs = s.seqRegs := rfl
@[simp] theorem delay_ports (p : DelayName) (s : State) : (delay p s).ports = s.ports := rfl
@[simp] theorem delay_inputs (p : DelayName) (s : State) : (delay p s).inputs = s.inputs := rfl
@[simp] theorem delay_draws (p : DelayName) (s : State) : (delay p s).draws = s.draws := rfl
@[simp] theorem delay_trace (p : DelayName) (s : State) : (delay p s).trace = s.trace ++ [.delay p] := rfl

@[simp] theorem setPollsLeft_cfg (n : Nat) (s : State) : (setPollsLeft n s).cfg = s.cfg := rfl
@[simp] theorem setPollsLeft_pins (n : Nat) (s : State) : (setPollsLeft n s).pins = s.pins := rfl
@[simp] theorem setPollsLeft_session (n : Nat) (s : State) : (setPollsLeft n s).session = s.session := rfl
@[simp] theorem setPollsLeft_linkRegs (n : Nat) (s : State) : (setPollsLeft n s).linkRegs = s.linkRegs := rfl
@[simp] theorem setPollsLeft_seqRegs (n : Nat) (s : State) : (setPollsLeft n s).seqRegs = { s.seqRegs with pollsLeft := BitVec.ofNat 32 n } := rfl
@[simp] theorem setPollsLeft_ports (n : Nat) (s : State) : (setPollsLeft n s).ports = s.ports := rfl
@[simp] theorem setPollsLeft_inputs (n : Nat) (s : State) : (setPollsLeft n s).inputs = s.inputs := rfl
@[simp] theorem setPollsLeft_draws (n : Nat) (s : State) : (setPollsLeft n s).draws = s.draws := rfl
@[simp] theorem setPollsLeft_trace (n : Nat) (s : State) : (setPollsLeft n s).trace = s.trace := rfl

@[simp] theorem setFirstErr_cfg (e : Option ErrCode) (s : State) : (setFirstErr e s).cfg = s.cfg := rfl
@[simp] theorem setFirstErr_pins (e : Option ErrCode) (s : State) : (setFirstErr e s).pins = s.pins := rfl
@[simp] theorem setFirstErr_session (e : Option ErrCode) (s : State) : (setFirstErr e s).session = s.session := rfl
@[simp] theorem setFirstErr_linkRegs (e : Option ErrCode) (s : State) : (setFirstErr e s).linkRegs = s.linkRegs := rfl
@[simp] theorem setFirstErr_seqRegs (e : Option ErrCode) (s : State) : (setFirstErr e s).seqRegs = { s.seqRegs with firstErr := e } := rfl
@[simp] theorem setFirstErr_ports (e : Option ErrCode) (s : State) : (setFirstErr e s).ports = s.ports := rfl
@[simp] theorem setFirstErr_inputs (e : Option ErrCode) (s : State) : (setFirstErr e s).inputs = s.inputs := rfl
@[simp] theorem setFirstErr_draws (e : Option ErrCode) (s : State) : (setFirstErr e s).draws = s.draws := rfl
@[simp] theorem setFirstErr_trace (e : Option ErrCode) (s : State) : (setFirstErr e s).trace = s.trace := rfl

@[simp] theorem setLast_cfg (k : FailKind) (s : State) : (setLast k s).cfg = s.cfg := rfl
@[simp] theorem setLast_pins (k : FailKind) (s : State) : (setLast k s).pins = s.pins := rfl
@[simp] theorem setLast_session (k : FailKind) (s : State) : (setLast k s).session = s.session := rfl
@[simp] theorem setLast_linkRegs (k : FailKind) (s : State) : (setLast k s).linkRegs = { s.linkRegs with last := k } := rfl
@[simp] theorem setLast_seqRegs (k : FailKind) (s : State) : (setLast k s).seqRegs = s.seqRegs := rfl
@[simp] theorem setLast_ports (k : FailKind) (s : State) : (setLast k s).ports = s.ports := rfl
@[simp] theorem setLast_inputs (k : FailKind) (s : State) : (setLast k s).inputs = s.inputs := rfl
@[simp] theorem setLast_draws (k : FailKind) (s : State) : (setLast k s).draws = s.draws := rfl
@[simp] theorem setLast_trace (k : FailKind) (s : State) : (setLast k s).trace = s.trace := rfl

@[simp] theorem setIdcode_cfg (v : Word) (s : State) : (setIdcode v s).cfg = s.cfg := rfl
@[simp] theorem setIdcode_pins (v : Word) (s : State) : (setIdcode v s).pins = s.pins := rfl
@[simp] theorem setIdcode_session (v : Word) (s : State) : (setIdcode v s).session = { s.session with idcodeReg := v } := rfl
@[simp] theorem setIdcode_linkRegs (v : Word) (s : State) : (setIdcode v s).linkRegs = s.linkRegs := rfl
@[simp] theorem setIdcode_seqRegs (v : Word) (s : State) : (setIdcode v s).seqRegs = s.seqRegs := rfl
@[simp] theorem setIdcode_ports (v : Word) (s : State) : (setIdcode v s).ports = s.ports := rfl
@[simp] theorem setIdcode_inputs (v : Word) (s : State) : (setIdcode v s).inputs = s.inputs := rfl
@[simp] theorem setIdcode_draws (v : Word) (s : State) : (setIdcode v s).draws = s.draws := rfl
@[simp] theorem setIdcode_trace (v : Word) (s : State) : (setIdcode v s).trace = s.trace := rfl

@[simp] theorem setCtrlApIndex_cfg (i : ApIndex) (s : State) : (setCtrlApIndex i s).cfg = s.cfg := rfl
@[simp] theorem setCtrlApIndex_pins (i : ApIndex) (s : State) : (setCtrlApIndex i s).pins = s.pins := rfl
@[simp] theorem setCtrlApIndex_session (i : ApIndex) (s : State) : (setCtrlApIndex i s).session = { s.session with ctrlApIndex := i } := rfl
@[simp] theorem setCtrlApIndex_linkRegs (i : ApIndex) (s : State) : (setCtrlApIndex i s).linkRegs = s.linkRegs := rfl
@[simp] theorem setCtrlApIndex_seqRegs (i : ApIndex) (s : State) : (setCtrlApIndex i s).seqRegs = s.seqRegs := rfl
@[simp] theorem setCtrlApIndex_ports (i : ApIndex) (s : State) : (setCtrlApIndex i s).ports = s.ports := rfl
@[simp] theorem setCtrlApIndex_inputs (i : ApIndex) (s : State) : (setCtrlApIndex i s).inputs = s.inputs := rfl
@[simp] theorem setCtrlApIndex_draws (i : ApIndex) (s : State) : (setCtrlApIndex i s).draws = s.draws := rfl
@[simp] theorem setCtrlApIndex_trace (i : ApIndex) (s : State) : (setCtrlApIndex i s).trace = s.trace := rfl

end Sys2Proof.Machine
end

