-- ==== Sys2Proof/Laws/Ops.lean ====
section
/-! SUPPORT. What each wire primitive does, said once: the state it leaves, as one record update. -/

namespace Sys2Proof.Machine

theorem clockPulse_eq (e : Event) (s : State) :
    clockPulse e s = { s with pins := { s.pins with swclk := false }, trace := s.trace ++ [e] } := rfl

theorem turnaround_eq (w : Bool) (s : State) :
    turnaround w s
      = { s with
          pins := { s.pins with swclk := false, swdioOut := true, swdioOe := w }
          session := { s.session with driveState := if w then .driven else .released }
          trace := s.trace ++ [.t w] } := rfl

theorem delay_eq (p : DelayName) (s : State) : delay p s = { s with trace := s.trace ++ [.delay p] } := rfl

@[simp] theorem wEvents_nil : wEvents [] = [] := rfl
@[simp] theorem rEvents_nil : rEvents [] = [] := rfl
@[simp] theorem wEvents_cons (b : Bool) (bs : List Bool) : wEvents (b :: bs) = .w b :: wEvents bs := rfl
@[simp] theorem rEvents_cons (b : Bool) (bs : List Bool) : rEvents (b :: bs) = .r b :: rEvents bs := rfl
@[simp] theorem wEvents_append (as bs : List Bool) : wEvents (as ++ bs) = wEvents as ++ wEvents bs := by
  simp [wEvents]
@[simp] theorem rEvents_append (as bs : List Bool) : rEvents (as ++ bs) = rEvents as ++ rEvents bs := by
  simp [rEvents]

/-- `pulses` counts along a trace. -/
@[simp] theorem pulses_append (as bs : List Event) : pulses (as ++ bs) = pulses as + pulses bs := by
  simp [pulses]

@[simp] theorem pulses_wEvents (bs : List Bool) : pulses (wEvents bs) = bs.length := by
  induction bs with
  | nil => rfl
  | cons b bs ih => simp_all [pulses, wEvents, List.filter_cons, Event.isPulse]

@[simp] theorem pulses_rEvents (bs : List Bool) : pulses (rEvents bs) = bs.length := by
  induction bs with
  | nil => rfl
  | cons b bs ih => simp_all [pulses, rEvents, List.filter_cons, Event.isPulse]

/-! ### Sending -/

/-- Driving a list of bits: one `W` each, the latch at the last of them (R141). -/
theorem sendAll_eq (bs : List Bool) (s : State) :
    sendAll bs s
      = { s with
          pins :=
            { s.pins with
              swclk := if bs = [] then s.pins.swclk else false
              swdioOut := bs.getLastD s.pins.swdioOut }
          trace := s.trace ++ wEvents bs } := by
  induction bs generalizing s with
  | nil => simp [sendAll]
  | cons b bs ih =>
    rw [sendAll, ih]
    cases bs with
    | nil => simp [clockPulse_eq, State.mapPins]
    | cons c cs => simp [clockPulse_eq, State.mapPins, List.getLastD]

theorem ensureDriven_driven {s : State} (h : s.session.driveState = .driven) : ensureDriven s = s := by
  simp [ensureDriven, h]

theorem ensureDriven_released {s : State} (h : s.session.driveState = .released) :
    ensureDriven s = turnaround true s := by
  simp [ensureDriven, h]

theorem ensureReleased_released {s : State} (h : s.session.driveState = .released) : ensureReleased s = s := by
  simp [ensureReleased, h]

theorem ensureReleased_driven {s : State} (h : s.session.driveState = .driven) :
    ensureReleased s = turnaround false s := by
  simp [ensureReleased, h]

/-- Sending with the line driven (R141). -/
theorem sendBits_driven {s : State} (bs : List Bool) (h : s.session.driveState = .driven) :
    sendBits bs s
      = { s with
          pins :=
            { s.pins with
              swclk := if bs = [] then s.pins.swclk else false
              swdioOut := bs.getLastD s.pins.swdioOut }
          trace := s.trace ++ wEvents bs } := by
  rw [sendBits, ensureDriven_driven h, sendAll_eq]

/-- Sending with the line released: the turnaround first (R141). -/
theorem sendBits_released {s : State} (bs : List Bool) (h : s.session.driveState = .released) :
    sendBits bs s
      = { s with
          pins := { s.pins with swclk := false, swdioOut := bs.getLastD true, swdioOe := true }
          session := { s.session with driveState := .driven }
          trace := s.trace ++ [.t true] ++ wEvents bs } := by
  rw [sendBits, ensureDriven_released h, sendAll_eq, turnaround_eq]
  simp

/-- Sending from a quiet state, whichever way the line stood (R37, R141). -/
theorem sendBits_quiet {s : State} (bs : List Bool) (h : Quiet s) :
    sendBits bs s
      = { s with
          pins :=
            { s.pins with
              swdioOe := true
              swdioOut := bs.getLastD (if s.session.driveState = .released then true else s.pins.swdioOut) }
          session := { s.session with driveState := .driven }
          trace := s.trace ++ entryTurn s ++ wEvents bs } := by
  obtain ⟨hclk, hoe, -⟩ := h
  cases hd : s.session.driveState with
  | driven =>
    rw [sendBits_driven bs hd, hclk]
    obtain ⟨_, ⟨c, o, e, n⟩, ⟨d, _, _, _, _, _, _⟩, _⟩ := s
    simp_all [entryTurn, DriveState.oe]
  | released =>
    rw [sendBits_released bs hd]
    obtain ⟨_, ⟨c, o, e, n⟩, ⟨d, _, _, _, _, _, _⟩, _⟩ := s
    simp_all [entryTurn]

/-- `writeBits` is `sendBits` of the value's low bits, with `SHIFT` and `BITCNT` used up (R141). -/
theorem writeBits_eq (v : Word) (n : Nat) (s : State) :
    writeBits v n s
      = { sendBits (lsbBits v n) s with
          linkRegs := { (sendBits (lsbBits v n) s).linkRegs with shift := v >>> n, bitcnt := 0#6 } } := rfl

/-- Sending in two parts is sending the whole (R144: how a sequence is cut into calls is not observable). -/
theorem sendBits_append (as bs : List Bool) (s : State) : sendBits bs (sendBits as s) = sendBits (as ++ bs) s := by
  cases hd : s.session.driveState with
  | driven =>
    rw [sendBits_driven as hd, sendBits_driven _ (by simpa using hd), sendBits_driven _ hd]
    cases bs with
    | nil => simp
    | cons b bs => simp [List.getLastD_eq_getLast?]
  | released =>
    rw [sendBits_released as hd, sendBits_driven _ (by simp), sendBits_released _ hd]
    cases bs with
    | nil => simp
    | cons b bs => simp [List.getLastD_eq_getLast?]

/-! ### Sampling -/

/-- Sampling what the target drives: the bits, one `R` each, taken off the line (R142, R23). -/
theorem recvAll_shows {s : State} (bits : List Bool) (rest : List (Option Bool)) (hoe : s.pins.swdioOe = false)
    (h : LineShows bits rest s) :
    recvAll bits.length s
      = (bits,
          { s with
            pins := { s.pins with swclk := if bits = [] then s.pins.swclk else false }
            inputs := { s.inputs with line := rest }
            trace := s.trace ++ rEvents bits }) := by
  induction bits generalizing s with
  | nil =>
    have h' : s.inputs.line = rest := by simpa [LineShows] using h
    obtain ⟨_, ⟨c, o, e, n⟩, _, _, _, _, ⟨l, _, _, _, _⟩, _⟩ := s
    simp_all [recvAll]
  | cons b bs ih =>
    have hl : s.inputs.line = some b :: (bs.map some ++ rest) := by simpa [LineShows] using h
    have hs : sample s = (b, s.mapInputs fun x => { x with line := bs.map some ++ rest }) := by
      simp [sample, hoe, hl]
    simp only [List.length_cons, recvAll, hs]
    rw [ih (by simpa [clockPulse_eq] using hoe) (by simp [LineShows, clockPulse_eq])]
    cases bs <;> simp [clockPulse_eq, State.mapInputs]

/-- Sampling whatever the line shows: as many bits as asked for, the driven ones as driven; the undriven ones are draws, each
counted (R142, R23; log 3). -/
theorem recvAll_any (n : Nat) {s : State} (hoe : s.pins.swdioOe = false) :
    ∃ bs k, bs.length = n
      ∧ (∀ j b, j < n → s.inputs.line[j]? = some (some b) → bs[j]? = some b)
      ∧ recvAll n s
          = (bs,
              { s with
                pins := { s.pins with swclk := if n = 0 then s.pins.swclk else false }
                inputs := { s.inputs with line := s.inputs.line.drop n }
                draws := s.draws + k
                trace := s.trace ++ rEvents bs }) := by
  induction n generalizing s with
  | zero => exact ⟨[], 0, by simp, by simp, by simp [recvAll]⟩
  | succ n ih =>
    have hs : ∃ b j, sample s
        = (b, { s with inputs := { s.inputs with line := s.inputs.line.drop 1 }, draws := s.draws + j })
        ∧ (∀ c, s.inputs.line[0]? = some (some c) → b = c) := by
      cases hl : s.inputs.line with
      | nil =>
        refine ⟨Config.undrivenLevel s.draws, 1, ?_, by simp⟩
        simp only [sample, hoe, hl]
        obtain ⟨_, _, _, _, _, _, ⟨l, _, _, _, _⟩, _⟩ := s
        simp_all [State.drew]
      | cons x l =>
        cases x with
        | none =>
          refine ⟨Config.undrivenLevel s.draws, 1, ?_, by simp⟩
          simp [sample, hoe, hl, State.drew, State.mapInputs]
        | some b => exact ⟨b, 0, by simp [sample, hoe, hl, State.mapInputs], by simp⟩
    obtain ⟨b, j, hs, hb⟩ := hs
    obtain ⟨bs, k, hlen, hbits, hrec⟩ :=
      ih (s := clockPulse (.r b) { s with inputs := { s.inputs with line := s.inputs.line.drop 1 }, draws := s.draws + j })
        (by simpa [clockPulse_eq] using hoe)
    refine ⟨b :: bs, j + k, by simp [hlen], ?_, ?_⟩
    · intro i c hi hc
      cases i with
      | zero => simpa using hb c hc
      | succ i =>
        simp only [List.getElem?_cons_succ]
        refine hbits i c (by omega) ?_
        simpa [clockPulse_eq, Nat.add_comm] using hc
    · simp only [recvAll, hs, hrec]
      simp only [clockPulse_eq, List.drop_drop, Nat.add_assoc, Nat.add_comm 1 n, rEvents_cons, List.append_assoc,
        List.cons_append, List.nil_append]
      simp

/-- Reading with the line driven: the turnaround first (R142). -/
theorem readBits_driven_shows {s : State} (bits : List Bool) (rest : List (Option Bool))
    (hd : s.session.driveState = .driven) (h : LineShows bits rest s) :
    readBits bits.length s
      = (ofLsbBits 32 bits,
          { s with
            pins := { s.pins with swclk := false, swdioOut := true, swdioOe := false }
            session := { s.session with driveState := .released }
            linkRegs := { s.linkRegs with shift := ofLsbBits 32 bits, bitcnt := 0#6 }
            inputs := { s.inputs with line := rest }
            trace := s.trace ++ [.t false] ++ rEvents bits }) := by
  rw [readBits, ensureReleased_driven hd, recvAll_shows bits rest (by simp [turnaround_eq]) (by simpa [LineShows, turnaround_eq] using h)]
  simp [turnaround_eq, State.mapLinkRegs]

/-- Reading with the line released (R142). -/
theorem readBits_released_shows {s : State} (bits : List Bool) (rest : List (Option Bool))
    (hd : s.session.driveState = .released) (hoe : s.pins.swdioOe = false) (hclk : s.pins.swclk = false)
    (h : LineShows bits rest s) :
    readBits bits.length s
      = (ofLsbBits 32 bits,
          { s with
            linkRegs := { s.linkRegs with shift := ofLsbBits 32 bits, bitcnt := 0#6 }
            inputs := { s.inputs with line := rest }
            trace := s.trace ++ rEvents bits }) := by
  rw [readBits, ensureReleased_released hd, recvAll_shows bits rest hoe h]
  obtain ⟨_, ⟨c, o, e, n⟩, ⟨d, _, _, _, _, _, _⟩, _⟩ := s
  simp_all [State.mapLinkRegs]

end Sys2Proof.Machine
end

