-- ==== Sys2Proof/Laws/Transfer.lean ====
section
/-! SUPPORT. What one transfer does (R190): the state it leaves for each answer of the target, said once. -/

namespace Sys2Proof.Machine

/-- The pins a transfer leaves: the clock low, the idle bit driven (R111, R190). -/
abbrev parkedPins (s : State) : Pins :=
  { swclk := false, swdioOut := s.cfg.wire.idleBit, swdioOe := true, nreset := s.pins.nreset }

/-- The request goes out driven, whatever the line was before (R191). -/
theorem requestPhase_eq (addr : Addr4) (isAP isRead : Bool) (s : State) :
    ∃ oe sh,
      requestPhase addr isAP isRead s
        = { s with
            pins := { s.pins with swclk := false, swdioOut := true, swdioOe := oe }
            session := { s.session with driveState := .driven }
            linkRegs := { s.linkRegs with req := requestByte addr isAP isRead, shift := sh, bitcnt := 0#6 }
            trace := s.trace ++ entryTurn s ++ wEvents (lsbBits (requestByte addr isAP isRead) 8) } := by
  cases hd : s.session.driveState with
  | driven =>
    refine ⟨s.pins.swdioOe, ((requestByte addr isAP isRead).setWidth 32) >>> 8, ?_⟩
    rw [requestPhase, writeBits_eq, sendBits_driven _ (by simpa using hd), lsbBits_setWidth _ (by omega),
      lsbBits_requestByte]
    obtain ⟨_, ⟨c, o, e, n⟩, ⟨d, _, _, _, _, _, _⟩, _⟩ := s
    simp_all [entryTurn, State.mapLinkRegs, List.getLastD_eq_getLast?]
  | released =>
    refine ⟨true, ((requestByte addr isAP isRead).setWidth 32) >>> 8, ?_⟩
    rw [requestPhase, writeBits_eq, sendBits_released _ (by simpa using hd), lsbBits_setWidth _ (by omega),
      lsbBits_requestByte]
    simp_all [entryTurn, State.mapLinkRegs, List.getLastD_eq_getLast?]

/-- The acknowledgement phase of a driven line (R192). -/
theorem ackPhase_eq {s : State} (ack : BitVec 3) (rest : List (Option Bool)) (hd : s.session.driveState = .driven)
    (h : LineShows (lsbBits ack 3) rest s) :
    ∃ sh,
      ackPhase s
        = (ack,
            { s with
              pins := { s.pins with swclk := false, swdioOut := true, swdioOe := false }
              session := { s.session with driveState := .released }
              linkRegs := { s.linkRegs with ack := ack, shift := sh, bitcnt := 0#6 }
              inputs := { s.inputs with line := rest }
              trace := s.trace ++ [.t false] ++ rEvents (lsbBits ack 3) }) := by
  have hr := readBits_driven_shows (lsbBits ack 3) rest hd h
  have hv : (ofLsbBits 32 (lsbBits ack 3)).setWidth 3 = ack := by
    rw [ofLsbBits_lsbBits_setWidth]; simp
  rw [lsbBits_length] at hr
  refine ⟨ofLsbBits 32 (lsbBits ack 3), ?_⟩
  simp only [ackPhase, hr, hv]
  simp [State.mapLinkRegs]

theorem idleBit_eq {s : State} (hd : s.session.driveState = .driven) :
    idleBit s
      = { s with
          pins := { s.pins with swclk := false, swdioOut := s.cfg.wire.idleBit }
          linkRegs := { s.linkRegs with shift := 0#32, bitcnt := 0#6 }
          trace := s.trace ++ [.w s.cfg.wire.idleBit] } := by
  rw [idleBit, writeBits_eq, sendBits_driven _ hd]
  cases s.cfg.wire.idleBit <;> rfl

/-- An OK read's data phase, whichever parity bit comes (R193). -/
theorem readDataPhase_eq {s : State} (data : Word) (par : Bool) (rest : List (Option Bool))
    (hd : s.session.driveState = .released) (hoe : s.pins.swdioOe = false) (hclk : s.pins.swclk = false)
    (h : LineShows (lsbBits data 32 ++ [par]) rest s) :
    readDataPhase s
      = (if par = parity32 data then .ok else .parity, data,
          { s with
            pins := parkedPins s
            session := { s.session with driveState := .driven }
            linkRegs := { s.linkRegs with rdata := data, rpar := par, shift := 0#32, bitcnt := 0#6 }
            inputs := { s.inputs with line := rest }
            trace :=
              s.trace ++ rEvents (lsbBits data 32) ++ [.r par] ++ [.t true] ++ [.w s.cfg.wire.idleBit] }) := by
  have h1 := readBits_released_shows (lsbBits data 32) (([par].map some) ++ rest) hd hoe hclk
    (by simpa [LineShows] using h)
  rw [lsbBits_length, ofLsbBits_lsbBits] at h1
  have h2 := fun (l : LinkRegs) => readBits_released_shows
    (s := { s with linkRegs := l, inputs := { s.inputs with line := ([par].map some) ++ rest }
                   trace := s.trace ++ rEvents (lsbBits data 32) }) [par] rest hd hoe hclk (by simp [LineShows])
  have hp : (ofLsbBits 32 [par]).getLsbD 0 = par := by rw [getLsbD_ofLsbBits]; simp
  simp only [List.length_cons, List.length_nil, Nat.zero_add] at h2
  simp only [readDataPhase, h1, State.mapLinkRegs, h2, hp, turnaround_eq]
  rw [idleBit_eq (by simp)]
  simp

/-- An OK write's data phase (R194). -/
theorem writeDataPhase_eq (data : Word) (s : State) :
    writeDataPhase data s
      = { s with
          pins := parkedPins s
          session := { s.session with driveState := .driven }
          linkRegs := { s.linkRegs with wdata := data, shift := 0#32, bitcnt := 0#6 }
          trace :=
            s.trace ++ [.t true] ++ wEvents (lsbBits data 32) ++ [.w (parity32 data)] ++ [.w s.cfg.wire.idleBit] } := by
  have hb : lsbBits (if parity32 data = true then 1#32 else 0#32) 1 = [parity32 data] := by
    cases parity32 data <;> rfl
  simp only [writeDataPhase, turnaround_eq, writeBits_eq, hb]
  rw [sendBits_driven (lsbBits data 32) (by simp), sendBits_driven [parity32 data] (by simp), idleBit_eq (by simp)]
  simp [State.mapLinkRegs]

/-- The tail of a frame that was not acknowledged OK (R195). -/
theorem notOkTail_eq {s : State} (hd : s.session.driveState = .released) :
    notOkTail s
      = { s with
          pins := parkedPins s
          session := { s.session with driveState := .driven }
          linkRegs := { s.linkRegs with shift := 0#32, bitcnt := 0#6 }
          trace := s.trace ++ [.t true] ++ wEvents (lsbBits s.cfg.wire.dummyData 32) ++ [.w s.cfg.wire.idleBit] } := by
  simp only [notOkTail, writeBits_eq]
  rw [sendBits_released (lsbBits s.cfg.wire.dummyData 32) hd, idleBit_eq (by simp)]

/-- The state a transfer leaves, but for the registers of the phases. -/
abbrev afterTransfer (s : State) (lr : LinkRegs) (st : XferStatus) (rest : List (Option Bool)) (es : List Event) :
    State :=
  { s with
    pins := parkedPins s
    session := { s.session with driveState := .driven, lock := false }
    linkRegs := lr
    ports := { s.ports with xferStatus := st }
    inputs := { s.inputs with line := rest }
    trace := s.trace ++ entryTurn s ++ es }

theorem entryTurn_setLock (b : Bool) (s : State) : entryTurn (s.setLock b) = entryTurn s := rfl

/-- What precedes the data phase: the request and an acknowledgement (R191, R192). -/
theorem rawTransfer_acked (addr : Addr4) (isAP isRead : Bool) (ack : BitVec 3) (rest : List (Option Bool))
    (s : State) (h : LineShows (lsbBits ack 3) rest s) :
    ∃ sh,
      ackPhase (requestPhase addr isAP isRead (s.setLock true))
        = (ack,
            { s with
              pins := { s.pins with swclk := false, swdioOut := true, swdioOe := false }
              session := { s.session with driveState := .released, lock := true }
              linkRegs :=
                { s.linkRegs with req := requestByte addr isAP isRead, ack := ack, shift := sh, bitcnt := 0#6 }
              inputs := { s.inputs with line := rest }
              trace := s.trace ++ entryTurn s ++ headEvents addr isAP isRead ack }) := by
  obtain ⟨oe, sh1, h1⟩ := requestPhase_eq addr isAP isRead (s.setLock true)
  rw [h1]
  obtain ⟨sh2, h2⟩ := ackPhase_eq
    (s := { s.setLock true with
            pins := { (s.setLock true).pins with swclk := false, swdioOut := true, swdioOe := oe }
            session := { (s.setLock true).session with driveState := .driven }
            linkRegs :=
              { (s.setLock true).linkRegs with req := requestByte addr isAP isRead, shift := sh1, bitcnt := 0#6 }
            trace := (s.setLock true).trace ++ entryTurn (s.setLock true)
              ++ wEvents (lsbBits (requestByte addr isAP isRead) 8) })
    ack rest rfl (by simpa [LineShows] using h)
  refine ⟨sh2, ?_⟩
  rw [h2]
  simp [entryTurn_setLock, headEvents, List.append_assoc]

/-- A read the target acknowledges OK, whichever parity bit it sends (R193). -/
theorem rawTransfer_read (addr : Addr4) (isAP : Bool) (w data : Word) (par : Bool) (rest : List (Option Bool)) (s : State)
    (h : LineShows (okReadAnswer s.cfg data par) rest s) :
    rawTransfer addr isAP true w s
      = { status := if par = parity32 data then .ok else .parity
          rdata := data
          st :=
            afterTransfer s
              { s.linkRegs with
                req := requestByte addr isAP true, ack := s.cfg.engine.ackOk, rdata := data, rpar := par,
                shift := 0#32, bitcnt := 0#6 }
              (if par = parity32 data then .ok else .parity) rest (okReadEvents s.cfg addr isAP data par) } := by
  obtain ⟨sh, h1⟩ := rawTransfer_acked addr isAP true s.cfg.engine.ackOk ((lsbBits data 32 ++ [par]).map some ++ rest) s
    (by simpa [LineShows, okReadAnswer, List.append_assoc] using h)
  have hdec : decodeAck s.cfg s.cfg.engine.ackOk = .ok := by simp [decodeAck]
  simp only [rawTransfer, h1, hdec, dataPhase, if_true]
  rw [readDataPhase_eq data par rest rfl rfl rfl (by simp [LineShows])]
  simp [State.setLock, State.mapSession, State.mapPorts, okReadEvents, List.append_assoc]

/-- A write the target acknowledges OK (R194). -/
theorem rawTransfer_write (addr : Addr4) (isAP : Bool) (w : Word) (rest : List (Option Bool)) (s : State)
    (h : LineShows (lsbBits s.cfg.engine.ackOk 3) rest s) :
    rawTransfer addr isAP false w s
      = { status := .ok
          rdata := 0#32
          st :=
            afterTransfer s
              { s.linkRegs with
                req := requestByte addr isAP false, ack := s.cfg.engine.ackOk, wdata := w, shift := 0#32,
                bitcnt := 0#6 }
              .ok rest (okWriteEvents s.cfg addr isAP w) } := by
  obtain ⟨sh, h1⟩ := rawTransfer_acked addr isAP false s.cfg.engine.ackOk rest s h
  have hdec : decodeAck s.cfg s.cfg.engine.ackOk = .ok := by simp [decodeAck]
  simp only [rawTransfer, h1, hdec, dataPhase, Bool.false_eq_true, if_false]
  rw [writeDataPhase_eq]
  simp [State.setLock, State.mapSession, State.mapPorts, okWriteEvents, List.append_assoc]

/-- The status of an acknowledgement that is not OK (R192). -/
theorem decodeAck_notOk {cfg : Params} {ack : BitVec 3} (h : ack ≠ cfg.engine.ackOk) :
    decodeAck cfg ack
      = if ack = cfg.engine.ackWait then .wait else if ack = cfg.engine.ackFault then .fault else .other ack := by
  simp [decodeAck, h]

/-- A transfer the target acknowledges otherwise (R195). -/
theorem rawTransfer_notOk (addr : Addr4) (isAP isRead : Bool) (w : Word) (ack : BitVec 3) (rest : List (Option Bool))
    (s : State) (hne : ack ≠ s.cfg.engine.ackOk) (h : LineShows (lsbBits ack 3) rest s) :
    rawTransfer addr isAP isRead w s
      = { status := decodeAck s.cfg ack
          rdata := 0#32
          st :=
            afterTransfer s
              { s.linkRegs with req := requestByte addr isAP isRead, ack := ack, shift := 0#32, bitcnt := 0#6 }
              (decodeAck s.cfg ack) rest (notOkEvents s.cfg addr isAP isRead ack) } := by
  obtain ⟨sh, h1⟩ := rawTransfer_acked addr isAP isRead ack rest s h
  have hnot : ∀ t, dataPhase isRead w (decodeAck s.cfg ack) t = (decodeAck s.cfg ack, 0#32, notOkTail t) := by
    intro t
    rw [decodeAck_notOk hne]
    split
    · rfl
    · split <;> rfl
  simp only [rawTransfer, h1, hnot]
  rw [notOkTail_eq rfl]
  simp [State.setLock, State.mapSession, State.mapPorts, notOkEvents, List.append_assoc]

end Sys2Proof.Machine
end

