-- ==== Sys2Proof/Laws/Frames.lean ====
section
/-! SUPPORT. Frames, whatever the line shows: what a wire operation, a flash operation and a sequencer operation can change, one
lemma per shared operation, for claims over all instructions. -/

namespace Sys2Proof.Machine

/-- What an operation of the Link or of the Transaction Engine leaves as it was. -/
structure Wired (s t : State) : Prop where
  cfg : t.cfg = s.cfg
  host : ∃ n, t.inputs = { s.inputs with line := s.inputs.line.drop n }
  trace : ∃ es, t.trace = s.trace ++ es
  nreset : t.pins.nreset = s.pins.nreset
  session : t.session = { s.session with driveState := t.session.driveState, lock := t.session.lock }
  seqRegs : t.seqRegs = s.seqRegs
  ports : HostPortsKept s t

theorem Wired.refl (s : State) : Wired s s :=
  ⟨rfl, ⟨0, rfl⟩, ⟨[], by simp⟩, rfl, rfl, rfl, rfl, rfl, rfl, rfl, rfl, rfl⟩

theorem Wired.trans {s t u : State} (h : Wired s t) (k : Wired t u) : Wired s u := by
  obtain ⟨n, hn⟩ := h.host
  obtain ⟨m, hm⟩ := k.host
  obtain ⟨es, hes⟩ := h.trace
  obtain ⟨fs, hfs⟩ := k.trace
  obtain ⟨p1, p2, p3, p4, p5, p6⟩ := h.ports
  obtain ⟨q1, q2, q3, q4, q5, q6⟩ := k.ports
  refine ⟨k.cfg.trans h.cfg, ⟨n + m, ?_⟩, ⟨es ++ fs, ?_⟩, k.nreset.trans h.nreset, ?_, k.seqRegs.trans h.seqRegs,
    q1.trans p1, q2.trans p2, q3.trans p3, q4.trans p4, q5.trans p5, q6.trans p6⟩
  · rw [hm, hn]; simp [List.drop_drop]
  · rw [hfs, hes, List.append_assoc]
  · rw [k.session, h.session]

/-- What an operation of the Flash Programming Engine leaves as it was; it leaves a parked line parked. -/
structure Worked (s t : State) : Prop where
  cfg : t.cfg = s.cfg
  host : ∃ n, t.inputs = { s.inputs with line := s.inputs.line.drop n }
  trace : ∃ es, t.trace = s.trace ++ es
  nreset : t.pins.nreset = s.pins.nreset
  session : t.session = { s.session with driveState := t.session.driveState, lock := t.session.lock }
  parked : Parked s → Parked t

/-- What an operation of the sequencers leaves as it was; it leaves a parked line parked. -/
structure Advanced (s t : State) : Prop where
  cfg : t.cfg = s.cfg
  host : ∃ n, t.inputs = { s.inputs with line := s.inputs.line.drop n }
  trace : ∃ es, t.trace = s.trace ++ es
  busyOp : t.session.busy = s.session.busy ∧ t.session.op = s.session.op
  parked : Parked s → Parked t

/-- A wire operation that leaves a parked line parked. -/
structure Ran (s t : State) : Prop where
  wired : Wired s t
  parked : Parked s → Parked t

theorem Ran.refl (s : State) : Ran s s := ⟨Wired.refl s, id⟩
theorem Ran.trans {s t u : State} (h : Ran s t) (k : Ran t u) : Ran s u :=
  ⟨h.wired.trans k.wired, k.parked ∘ h.parked⟩

theorem Worked.refl (s : State) : Worked s s := ⟨rfl, ⟨0, rfl⟩, ⟨[], by simp⟩, rfl, rfl, id⟩
theorem Worked.trans {s t u : State} (h : Worked s t) (k : Worked t u) : Worked s u := by
  obtain ⟨n, hn⟩ := h.host
  obtain ⟨m, hm⟩ := k.host
  obtain ⟨es, hes⟩ := h.trace
  obtain ⟨fs, hfs⟩ := k.trace
  refine ⟨k.cfg.trans h.cfg, ⟨n + m, ?_⟩, ⟨es ++ fs, ?_⟩, k.nreset.trans h.nreset, ?_, k.parked ∘ h.parked⟩
  · rw [hm, hn]; simp [List.drop_drop]
  · rw [hfs, hes, List.append_assoc]
  · rw [k.session, h.session]

theorem Advanced.refl (s : State) : Advanced s s := ⟨rfl, ⟨0, rfl⟩, ⟨[], by simp⟩, ⟨rfl, rfl⟩, id⟩
theorem Advanced.trans {s t u : State} (h : Advanced s t) (k : Advanced t u) : Advanced s u := by
  obtain ⟨n, hn⟩ := h.host
  obtain ⟨m, hm⟩ := k.host
  obtain ⟨es, hes⟩ := h.trace
  obtain ⟨fs, hfs⟩ := k.trace
  refine ⟨k.cfg.trans h.cfg, ⟨n + m, ?_⟩, ⟨es ++ fs, ?_⟩,
    ⟨k.busyOp.1.trans h.busyOp.1, k.busyOp.2.trans h.busyOp.2⟩, k.parked ∘ h.parked⟩
  · rw [hm, hn]; simp [List.drop_drop]
  · rw [hfs, hes, List.append_assoc]

theorem Ran.worked {s t : State} (h : Ran s t) : Worked s t :=
  ⟨h.wired.cfg, h.wired.host, h.wired.trace, h.wired.nreset, h.wired.session, h.parked⟩

theorem Worked.advanced {s t : State} (h : Worked s t) : Advanced s t :=
  ⟨h.cfg, h.host, h.trace, by rw [h.session]; exact ⟨rfl, rfl⟩, h.parked⟩

theorem Ran.advanced {s t : State} (h : Ran s t) : Advanced s t := h.worked.advanced

/-! ### `try` -/

theorem Ran.tryThen {α β : Type} {s : State} {r : Res α} {k : α → State → Res β} (h : Ran s r.2)
    (hk : ∀ a u, Ran u (k a u).2) : Ran s (tryThen r k).2 := by
  obtain ⟨v, u⟩ := r
  cases v with
  | ok a => exact h.trans (hk a u)
  | error c => exact h

theorem Worked.tryThen {α β : Type} {s : State} {r : Res α} {k : α → State → Res β} (h : Worked s r.2)
    (hk : ∀ a u, Worked u (k a u).2) : Worked s (tryThen r k).2 := by
  obtain ⟨v, u⟩ := r
  cases v with
  | ok a => exact h.trans (hk a u)
  | error c => exact h

theorem Advanced.tryThen {α β : Type} {s : State} {r : Res α} {k : α → State → Res β} (h : Advanced s r.2)
    (hk : ∀ a u, Advanced u (k a u).2) : Advanced s (tryThen r k).2 := by
  obtain ⟨v, u⟩ := r
  cases v with
  | ok a => exact h.trans (hk a u)
  | error c => exact h

/-- The two ways `try` can end (R12). -/
theorem tryThen_ok {α β : Type} (a : α) (s : State) (k : α → State → Res β) : tryThen (.ok a, s) k = k a s := rfl
theorem tryThen_error {α β : Type} (c : ErrCode) (s : State) (k : α → State → Res β) :
    tryThen (.error c, s) k = (.error c, s) := rfl

theorem Ran.ite {α : Type} {s : State} {c : Prop} [Decidable c] {x y : α × State} (hx : Ran s x.2) (hy : Ran s y.2) :
    Ran s (if c then x else y).2 := by
  split <;> assumption

theorem Worked.ite {α : Type} {s : State} {c : Prop} [Decidable c] {x y : α × State} (hx : Worked s x.2)
    (hy : Worked s y.2) : Worked s (if c then x else y).2 := by
  split <;> assumption

/-! ### The Link -/

theorem wired_mapLinkRegs (f : LinkRegs → LinkRegs) (s : State) : Wired s (s.mapLinkRegs f) :=
  ⟨rfl, ⟨0, rfl⟩, ⟨[], by simp⟩, rfl, rfl, rfl, rfl, rfl, rfl, rfl, rfl, rfl⟩

theorem ran_mapLinkRegs (f : LinkRegs → LinkRegs) (s : State) : Ran s (s.mapLinkRegs f) :=
  ⟨wired_mapLinkRegs f s, fun h => h⟩

theorem wired_setLock (b : Bool) (s : State) : Wired s (s.setLock b) :=
  ⟨rfl, ⟨0, rfl⟩, ⟨[], by simp⟩, rfl, rfl, rfl, rfl, rfl, rfl, rfl, rfl, rfl⟩

theorem wired_clockPulse (e : Event) (s : State) : Wired s (clockPulse e s) :=
  ⟨rfl, ⟨0, rfl⟩, ⟨[e], rfl⟩, rfl, rfl, rfl, rfl, rfl, rfl, rfl, rfl, rfl⟩

theorem wired_turnaround (b : Bool) (s : State) : Wired s (turnaround b s) :=
  ⟨rfl, ⟨0, rfl⟩, ⟨[.t b], rfl⟩, rfl, rfl, rfl, rfl, rfl, rfl, rfl, rfl, rfl⟩

theorem ran_delay (p : DelayName) (s : State) : Ran s (delay p s) :=
  ⟨⟨rfl, ⟨0, rfl⟩, ⟨[.delay p], rfl⟩, rfl, rfl, rfl, rfl, rfl, rfl, rfl, rfl, rfl⟩, fun h => h⟩

theorem wired_sample (s : State) : Wired s (sample s).2 := by
  unfold sample
  split
  · exact Wired.refl s
  · split
    · rename_i b rest hl
      exact ⟨rfl, ⟨1, by simp [hl, State.mapInputs]⟩, ⟨[], by simp⟩, rfl, rfl, rfl, rfl, rfl, rfl, rfl, rfl, rfl⟩
    · rename_i rest hl
      exact ⟨rfl, ⟨1, by simp [hl, State.mapInputs, State.drew]⟩, ⟨[], by simp⟩, rfl, rfl, rfl, rfl, rfl, rfl, rfl, rfl, rfl⟩
    · exact ⟨rfl, ⟨0, rfl⟩, ⟨[], by simp⟩, rfl, rfl, rfl, rfl, rfl, rfl, rfl, rfl, rfl⟩

theorem wired_sendBits (bs : List Bool) (s : State) : Wired s (sendBits bs s) := by
  cases hd : s.session.driveState with
  | driven =>
    rw [sendBits_driven bs hd]
    exact ⟨rfl, ⟨0, rfl⟩, ⟨_, rfl⟩, rfl, rfl, rfl, rfl, rfl, rfl, rfl, rfl, rfl⟩
  | released =>
    rw [sendBits_released bs hd]
    exact ⟨rfl, ⟨0, rfl⟩, ⟨_, List.append_assoc _ _ _⟩, rfl, rfl, rfl, rfl, rfl, rfl, rfl, rfl, rfl⟩

theorem wired_writeBits (v : Word) (n : Nat) (s : State) : Wired s (writeBits v n s) :=
  (wired_sendBits _ s).trans (wired_mapLinkRegs _ _)

theorem wired_recvAll (n : Nat) (s : State) : Wired s (recvAll n s).2 := by
  induction n generalizing s with
  | zero => exact Wired.refl s
  | succ n ih => exact ((wired_sample s).trans (wired_clockPulse _ _)).trans (ih _)

theorem wired_readBits (n : Nat) (s : State) : Wired s (readBits n s).2 := by
  unfold readBits
  dsimp only
  refine Wired.trans (t := ensureReleased s) ?_ ((wired_recvAll n _).trans (wired_mapLinkRegs _ _))
  unfold ensureReleased
  split
  · exact wired_turnaround _ _
  · exact Wired.refl s

theorem quiet_sendBits {s : State} (bs : List Bool) (h : Quiet s) : Parked (sendBits bs s) := by
  rw [sendBits_quiet bs h]
  exact ⟨⟨h.1, rfl, h.2.2⟩, rfl⟩

theorem ran_sendBits (bs : List Bool) (s : State) : Ran s (sendBits bs s) :=
  ⟨wired_sendBits bs s, fun h => quiet_sendBits bs h.1⟩

theorem ran_writeBits (v : Word) (n : Nat) (s : State) : Ran s (writeBits v n s) :=
  (ran_sendBits _ s).trans (ran_mapLinkRegs _ _)

theorem ran_lineReset (s : State) : Ran s (lineReset s) := by
  unfold lineReset
  exact (ran_sendBits _ s).trans (ran_mapLinkRegs _ _)

theorem ran_jtagToSwdSequence (s : State) : Ran s (jtagToSwdSequence s) :=
  (ran_writeBits _ _ s).trans (ran_lineReset _)

theorem ran_dormantWakeSequence (s : State) : Ran s (dormantWakeSequence s) := by
  unfold dormantWakeSequence
  exact (ran_sendBits _ s).trans <| (ran_writeBits _ _ _).trans <| (ran_writeBits _ _ _).trans <|
    (ran_writeBits _ _ _).trans <| (ran_writeBits _ _ _).trans <| (ran_sendBits _ _).trans <|
    (ran_writeBits _ _ _).trans (ran_lineReset _)

/-! ### Transfers -/

theorem wired_requestPhase (a : Addr4) (p r : Bool) (s : State) : Wired s (requestPhase a p r s) :=
  (wired_mapLinkRegs _ s).trans (wired_writeBits _ _ _)

theorem wired_ackPhase (s : State) : Wired s (ackPhase s).2 := by
  unfold ackPhase
  dsimp only
  exact (wired_readBits 3 s).trans (wired_mapLinkRegs _ _)

theorem wired_idleBit (s : State) : Wired s (idleBit s) := wired_writeBits _ _ s

theorem wired_readDataPhase (s : State) : Wired s (readDataPhase s).2.2 := by
  unfold readDataPhase
  exact (wired_readBits 32 s).trans <| (wired_mapLinkRegs _ _).trans <| (wired_readBits 1 _).trans <|
    (wired_mapLinkRegs _ _).trans <| (wired_turnaround _ _).trans (wired_idleBit _)

theorem wired_writeDataPhase (d : Word) (s : State) : Wired s (writeDataPhase d s) := by
  unfold writeDataPhase
  exact (wired_mapLinkRegs _ s).trans <| (wired_turnaround _ _).trans <| (wired_writeBits _ _ _).trans <|
    (wired_writeBits _ _ _).trans (wired_idleBit _)

theorem wired_notOkTail (s : State) : Wired s (notOkTail s) :=
  (wired_writeBits _ _ s).trans (wired_idleBit _)

theorem wired_dataPhase (r : Bool) (d : Word) (st : XferStatus) (s : State) : Wired s (dataPhase r d st s).2.2 := by
  unfold dataPhase
  split
  · split
    · exact wired_readDataPhase s
    · exact wired_writeDataPhase d s
  · exact wired_notOkTail s

theorem wired_xferStatus (st : XferStatus) (s : State) : Wired s (s.mapPorts fun p => { p with xferStatus := st }) :=
  ⟨rfl, ⟨0, rfl⟩, ⟨[], by simp⟩, rfl, rfl, rfl, rfl, rfl, rfl, rfl, rfl, rfl⟩

theorem wired_rawTransfer (a : Addr4) (p r : Bool) (d : Word) (s : State) : Wired s (rawTransfer a p r d s).st := by
  unfold rawTransfer
  exact (wired_setLock true s).trans <| (wired_requestPhase _ _ _ _).trans <| (wired_ackPhase _).trans <|
    (wired_dataPhase _ _ _ _).trans <| (wired_setLock false _).trans (wired_xferStatus _ _)

/-- After `idleBit` on a driven, enabled line the clock is low and the line as it was (R37). -/
theorem idleBit_parkedPins {s : State} (hd : s.session.driveState = .driven) (hoe : s.pins.swdioOe = true) :
    (idleBit s).pins.swclk = false ∧ (idleBit s).pins.swdioOe = true ∧ (idleBit s).session.driveState = .driven := by
  rw [idleBit_eq hd]
  exact ⟨rfl, hoe, hd⟩

/-- Every data phase ends with the line driven (R37, R190). -/
theorem dataPhase_parkedPins {s : State} (r : Bool) (d : Word) (st : XferStatus)
    (hd : s.session.driveState = .released) :
    (dataPhase r d st s).2.2.pins.swclk = false ∧ (dataPhase r d st s).2.2.pins.swdioOe = true
      ∧ (dataPhase r d st s).2.2.session.driveState = .driven := by
  unfold dataPhase
  split
  · split
    · exact idleBit_parkedPins rfl rfl
    · simp only [writeDataPhase_eq, and_self]
  · rw [notOkTail_eq hd]
    exact ⟨rfl, rfl, rfl⟩

theorem ackPhase_released (s : State) : (ackPhase s).2.session.driveState = .released := by
  have h := wired_recvAll 3 (ensureReleased s)
  have he : (ensureReleased s).session.driveState = .released := by
    unfold ensureReleased
    split
    · rfl
    · cases hd : s.session.driveState <;> simp_all
  have hk : (recvAll 3 (ensureReleased s)).2.session.driveState = (ensureReleased s).session.driveState := by
    have hstep : ∀ u : State, (sample u).2.session = u.session := by
      intro u
      unfold sample
      split
      · rfl
      · split <;> rfl
    simp [recvAll, clockPulse_eq, hstep]
  simpa [ackPhase, readBits, hk] using he

/-- R37: after any transfer the line is parked, whatever came before and whatever the line showed. -/
theorem rawTransfer_parked (a : Addr4) (p r : Bool) (d : Word) (s : State) : Parked (rawTransfer a p r d s).st := by
  unfold rawTransfer
  have h := dataPhase_parkedPins r d (decodeAck s.cfg (ackPhase (requestPhase a p r (s.setLock true))).1)
    (ackPhase_released (requestPhase a p r (s.setLock true)))
  refine ⟨⟨h.1, ?_, rfl⟩, h.2.2⟩
  simp [h.2.1, h.2.2, DriveState.oe]

theorem ran_rawTransfer (a : Addr4) (p r : Bool) (d : Word) (s : State) : Ran s (rawTransfer a p r d s).st :=
  ⟨wired_rawTransfer a p r d s, fun _ => rawTransfer_parked a p r d s⟩

theorem ran_clearSticky (s : State) : Ran s (clearSticky s) := ran_rawTransfer _ _ _ _ s

theorem ran_setLast (k : FailKind) (s : State) : Ran s (setLast k s) := ran_mapLinkRegs _ s

theorem ran_retryLoop (a : Addr4) (p r : Bool) (d : Word) (n k : Nat) (s : State) :
    Ran s (retryLoop a p r d n k s).2 := by
  induction n generalizing k s with
  | zero => exact Ran.refl s
  | succ n ih =>
    unfold retryLoop
    have h := (ran_rawTransfer a p r d s).trans
      (ran_mapLinkRegs (fun l => { l with attempt := BitVec.ofNat 4 (k + 1) }) _)
    dsimp only
    split
    · exact h
    · exact (h.trans (ran_setLast _ _)).trans ((ran_delay _ _).trans (ih _ _))
    · exact (h.trans (ran_setLast _ _)).trans ((ran_clearSticky _).trans (ih _ _))
    · exact (h.trans (ran_setLast _ _)).trans ((ran_clearSticky _).trans (ih _ _))
    · exact (h.trans (ran_setLast _ _)).trans (ih _ _)

theorem ran_retry (a : Addr4) (p r : Bool) (d : Word) (s : State) : Ran s (retry a p r d s).2 :=
  (ran_mapLinkRegs _ s).trans (ran_retryLoop _ _ _ _ _ _ _)

theorem ran_dpRead (a : Addr4) (s : State) : Ran s (dpRead a s).2 := ran_retry _ _ _ _ s
theorem ran_dpWrite (a : Addr4) (d : Word) (s : State) : Ran s (dpWrite a d s).2 :=
  (ran_retry _ _ _ _ s).tryThen fun _ u => Ran.refl u
theorem ran_apWrite (a : Addr4) (d : Word) (s : State) : Ran s (apWrite a d s).2 :=
  (ran_retry _ _ _ _ s).tryThen fun _ u => Ran.refl u
theorem ran_apRead (a : Addr4) (s : State) : Ran s (apRead a s).2 :=
  (ran_retry _ _ _ _ s).tryThen fun _ u => ran_dpRead _ u
theorem ran_selectAp (i : ApIndex) (r : Reg8) (s : State) : Ran s (selectAp i r s).2 := ran_dpWrite _ _ s

theorem ran_memReadWord (a : Word) (s : State) : Ran s (memReadWord a s).2 := by
  unfold memReadWord
  split
  · exact (ran_apWrite _ _ s).tryThen fun _ u => ran_apRead _ u
  · exact Ran.refl s

theorem ran_memWriteWord (a v : Word) (s : State) : Ran s (memWriteWord a v s).2 := by
  unfold memWriteWord
  split
  · exact (ran_apWrite _ _ s).tryThen fun _ u => ran_apWrite _ _ u
  · exact Ran.refl s

theorem ran_memApInit (s : State) : Ran s (memApInit s).2 :=
  (ran_selectAp _ _ s).tryThen fun _ u => ran_apWrite _ _ u

theorem ran_setControllerMode (m : NvmcMode) (s : State) : Ran s (setControllerMode m s).2 :=
  (ran_memWriteWord _ _ s).tryThen fun _ u =>
    (ran_memReadWord _ u).tryThen fun _ w => Ran.ite (Ran.refl w) (Ran.refl w)

theorem ran_readIdcode (s : State) : Ran s (readIdcode s).2 :=
  (ran_dpRead _ s).tryThen fun _ u => Ran.ite (Ran.refl u) (Ran.refl u)

/-! ### Power-up and flash -/

theorem worked_mapSeqRegs (f : SeqRegs → SeqRegs) (s : State) : Worked s (s.mapSeqRegs f) :=
  ⟨rfl, ⟨0, rfl⟩, ⟨[], by simp⟩, rfl, rfl, fun h => h⟩

theorem worked_delayIfMore (n : Nat) (p : DelayName) (s : State) : Worked s (delayIfMore n p s) := by
  unfold delayIfMore
  split
  · exact Worked.refl s
  · exact (ran_delay p s).worked

theorem worked_progress (d t : Word) (l : ProgLabel) (s : State) : Worked s (progress d t l s) := by
  unfold progress
  dsimp only
  split
  · exact ⟨rfl, ⟨0, rfl⟩, ⟨_, rfl⟩, rfl, rfl, fun h => h⟩
  · exact ⟨rfl, ⟨0, rfl⟩, ⟨_, rfl⟩, rfl, rfl, fun h => h⟩

theorem worked_readBuf (i : Nat) (s : State) : Worked s (readBuf i s).2 :=
  ⟨rfl, ⟨0, rfl⟩, ⟨[], by simp [readBuf]⟩, rfl, rfl, fun h => h⟩

theorem worked_powerUpPoll (n : Nat) (s : State) : Worked s (powerUpPoll n s).2 := by
  induction n generalizing s with
  | zero => exact Worked.refl s
  | succ n ih =>
    have h := (ran_dpRead s.cfg.engine.dpCtrlStat s).worked
    unfold powerUpPoll
    split
    · rename_i v s1 heq
      rw [heq] at h
      split
      · exact h
      · exact h.trans ((worked_mapSeqRegs _ _).trans ((worked_delayIfMore _ _ _).trans (ih _)))
    · rename_i c s1 heq
      rw [heq] at h
      exact h.trans ((worked_mapSeqRegs _ _).trans ((worked_delayIfMore _ _ _).trans (ih _)))

theorem worked_powerUp (s : State) : Worked s (powerUp s).2 :=
  (ran_dpWrite _ _ s).worked.tryThen fun _ u => (ran_dpWrite _ _ u).worked.tryThen fun _ w =>
    (worked_mapSeqRegs _ w).trans (worked_powerUpPoll _ _)

theorem worked_readyPoll (n run : Nat) (s : State) : Worked s (readyPoll n run s).2 := by
  induction n generalizing run s with
  | zero => exact Worked.refl s
  | succ n ih =>
    have h := (ran_memReadWord s.cfg.flash.nvmcReady s).worked
    unfold readyPoll
    exact Worked.ite (by dsimp only; exact h.trans (worked_mapSeqRegs _ _)) (h.trans ((worked_mapSeqRegs _ _).trans
      ((worked_mapSeqRegs _ _).trans ((worked_delayIfMore _ _ _).trans (ih _ _)))))

theorem worked_waitControllerReady (t : Nat) (s : State) : Worked s (waitControllerReady t s).2 :=
  (worked_mapSeqRegs _ s).trans ((worked_mapSeqRegs _ _).trans (worked_readyPoll _ _ _))

theorem worked_finish {s : State} {r : Res Unit} (h : Worked s r.2) : Worked s (finish r).2 := by
  have hm := h.trans (ran_setControllerMode .readOnly r.2).worked
  unfold finish
  dsimp only
  split <;> exact hm

theorem worked_sampleErased (p : Word) (os : List Word) (s : State) : Worked s (sampleErased p os s).2 := by
  induction os generalizing s with
  | nil => exact Worked.refl s
  | cons o os ih =>
    exact (ran_memReadWord _ s).worked.tryThen fun _ u => Worked.ite (ih u) (Worked.refl u)

theorem worked_erasePage (a : Word) (s : State) : Worked s (erasePage a s).2 := by
  unfold erasePage
  split
  · refine worked_finish ?_
    exact (worked_waitControllerReady _ s).tryThen fun _ s1 => (ran_setControllerMode _ s1).worked.tryThen fun _ s2 =>
      (ran_memWriteWord _ _ s2).worked.tryThen fun _ s3 => (ran_delay _ s3).worked.trans <|
        (worked_waitControllerReady _ _).tryThen fun _ s4 => worked_sampleErased _ _ s4
  · exact Worked.refl s

theorem worked_flashWriteWord (a d : Word) (s : State) : Worked s (flashWriteWord a d s).2 := by
  unfold flashWriteWord
  split
  · refine worked_finish ?_
    exact (ran_setControllerMode _ s).worked.tryThen fun _ s1 => (ran_memWriteWord _ _ s1).worked.tryThen fun _ s2 =>
      worked_waitControllerReady _ s2
  · exact Worked.refl s

theorem worked_eraseAll (s : State) : Worked s (eraseAll s).2 := by
  refine worked_finish ?_
  exact (worked_waitControllerReady _ s).tryThen fun _ s1 => (ran_setControllerMode _ s1).worked.tryThen fun _ s2 =>
    (ran_memWriteWord _ _ s2).worked.tryThen fun _ s3 => (ran_delay _ s3).worked.trans (worked_waitControllerReady _ _)

theorem worked_afterWord (l : Word) (s : State) : Worked s (afterWord l s).2 := by
  unfold afterWord
  exact Worked.tryThen
    (Worked.ite ((worked_mapSeqRegs _ s).trans ((worked_mapSeqRegs _ _).trans (worked_waitControllerReady _ _)))
      (by dsimp only; exact worked_mapSeqRegs _ s))
    fun _ s1 => Worked.ite (by dsimp only; exact (worked_mapSeqRegs _ s1).trans (worked_progress _ _ _ _))
      (Worked.refl s1)

theorem worked_spliceBytes (l : Word) (n k : Nat) (s : State) : Worked s (spliceBytes l n k s) := by
  induction n generalizing k s with
  | zero => exact Worked.refl s
  | succ n ih =>
    unfold spliceBytes
    split
    · exact (worked_readBuf _ s).trans ((worked_mapSeqRegs _ _).trans (ih _ _))
    · exact Worked.refl s

theorem worked_loadLanes (n k : Nat) (s : State) : Worked s (loadLanes n k s) := by
  induction n generalizing k s with
  | zero => exact Worked.refl s
  | succ n ih => exact (worked_readBuf _ s).trans ((worked_mapSeqRegs _ _).trans (ih _ _))

theorem worked_writeSpliced (w l d : Word) (s : State) : Worked s (writeSpliced w l d s).2 :=
  (ran_memWriteWord _ _ s).worked.tryThen fun _ s1 => (worked_mapSeqRegs _ s1).trans (worked_afterWord _ _)

theorem worked_leadingWord (l : Word) (s : State) : Worked s (leadingWord l s).2 := by
  unfold leadingWord
  dsimp only
  split
  · exact Worked.refl s
  · exact (ran_memReadWord _ s).worked.tryThen fun _ s1 =>
      (worked_mapSeqRegs _ s1).trans ((worked_spliceBytes _ _ _ _).trans (worked_writeSpliced _ _ _ _))

theorem worked_wholeWords (l : Word) (n : Nat) (s : State) : Worked s (wholeWords l n s).2 := by
  induction n generalizing s with
  | zero => exact Worked.refl s
  | succ n ih =>
    unfold wholeWords
    split
    · exact ((worked_loadLanes _ _ s).trans (worked_writeSpliced _ _ _ _)).tryThen fun _ s1 => ih s1
    · exact Worked.refl s

theorem worked_trailingWord (l : Word) (s : State) : Worked s (trailingWord l s).2 := by
  unfold trailingWord
  split
  · exact ((worked_mapSeqRegs _ s).trans ((worked_spliceBytes _ _ _ _).trans
      (ran_memWriteWord _ _ _).worked)).tryThen fun _ s1 => worked_afterWord _ s1
  · exact Worked.refl s

theorem worked_closeTail (l : Word) (s : State) : Worked s (closeTail l s).2 := by
  unfold closeTail
  exact Worked.tryThen (Worked.ite (Worked.refl s) (worked_waitControllerReady _ s))
    fun _ s1 => Worked.ite (Worked.refl s1) (worked_progress _ _ _ s1)

theorem worked_writeBuffer (a l : Word) (s : State) : Worked s (writeBuffer a l s).2 := by
  unfold writeBuffer
  split
  · exact Worked.refl s
  · split
    · exact Worked.refl s
    · refine worked_finish ?_
      exact (ran_setControllerMode _ s).worked.tryThen fun _ s1 =>
        ((worked_mapSeqRegs _ s1).trans (worked_leadingWord _ _)).tryThen fun _ s2 =>
          (worked_wholeWords _ _ s2).tryThen fun _ s3 => (worked_trailingWord _ s3).tryThen fun _ s4 =>
            worked_closeTail _ s4

theorem worked_erasePages (total n d : Nat) (p : Word) (s : State) : Worked s (erasePages total n d p s).2 := by
  induction n generalizing d p s with
  | zero => exact Worked.refl s
  | succ n ih =>
    exact ((worked_mapSeqRegs _ s).trans (worked_erasePage _ _)).tryThen fun _ s1 =>
      (worked_progress _ _ _ s1).trans (ih _ _ _)

theorem worked_compareLanes (st l w : Word) (c n k : Nat) (s : State) :
    Worked s (compareLanes st l w c n k s).2 := by
  induction n generalizing k s with
  | zero => exact Worked.refl s
  | succ n ih =>
    unfold compareLanes
    dsimp only
    split
    · split
      · exact (worked_readBuf _ s).trans (ih _ _)
      · exact worked_readBuf _ s
    · exact ih _ _

theorem worked_verifyWords (st l : Word) (n c : Nat) (s : State) : Worked s (verifyWords st l n c s).2 := by
  induction n generalizing c s with
  | zero => exact Worked.refl s
  | succ n ih =>
    exact (ran_memReadWord _ s).worked.tryThen fun w s1 => by
      dsimp only
      have h := worked_compareLanes st l w c 4 0 s1
      split
      · refine Worked.trans ?_ (ih _ _)
        split
        · exact (h.trans (worked_mapSeqRegs _ _)).trans ((worked_mapSeqRegs _ _).trans (worked_progress _ _ _ _))
        · exact h.trans (worked_mapSeqRegs _ _)
      · exact h

theorem worked_updateFirmware (st l : Word) (v : Bool) (s : State) : Worked s (updateFirmware st l v s).2 := by
  unfold updateFirmware
  split
  · exact Worked.refl s
  · split
    · exact (worked_erasePages _ _ _ _ s).tryThen fun _ s1 => (worked_writeBuffer _ _ s1).tryThen fun _ s2 =>
        Worked.ite ((worked_mapSeqRegs _ s2).trans (worked_verifyWords _ _ _ _ _)) (Worked.refl s2)
    · exact Worked.refl s

/-! ### Sequencers -/

theorem advanced_mapSeqRegs (f : SeqRegs → SeqRegs) (s : State) : Advanced s (s.mapSeqRegs f) :=
  (worked_mapSeqRegs f s).advanced

theorem advanced_setConnection (c : ConnectionState) (s : State) : Advanced s (s.setConnection c) :=
  ⟨rfl, ⟨0, rfl⟩, ⟨[], by simp⟩, ⟨rfl, rfl⟩, fun h => h⟩

theorem advanced_setIdcode (v : Word) (s : State) : Advanced s (setIdcode v s) :=
  ⟨rfl, ⟨0, rfl⟩, ⟨[], by simp⟩, ⟨rfl, rfl⟩, fun h => h⟩

theorem advanced_setCtrlApIndex (i : ApIndex) (s : State) : Advanced s (setCtrlApIndex i s) :=
  ⟨rfl, ⟨0, rfl⟩, ⟨[], by simp⟩, ⟨rfl, rfl⟩, fun h => h⟩

theorem advanced_sessionReinit (s : State) : Advanced s (sessionReinit s) :=
  ⟨rfl, ⟨0, rfl⟩, ⟨[], by simp [sessionReinit]⟩, ⟨rfl, rfl⟩, fun h => ⟨⟨rfl, rfl, h.1.2.2⟩, rfl⟩⟩

theorem advanced_identify (s : State) : Advanced s (identify s).2 := by
  unfold identify
  have h1 := ((ran_dormantWakeSequence s).trans (ran_readIdcode _)).advanced
  split
  · rename_i v s1 heq
    rw [heq] at h1
    exact h1
  · rename_i c s1 heq
    rw [heq] at h1
    have h2 := h1.trans ((ran_lineReset _).trans ((ran_jtagToSwdSequence _).trans (ran_readIdcode _))).advanced
    split
    · rename_i v s2 heq2
      rw [heq2] at h2
      exact h2
    · rename_i c2 s2 heq2
      rw [heq2] at h2
      exact h2

theorem advanced_connect (s : State) : Advanced s (connect s).2 :=
  ((advanced_sessionReinit s).trans (advanced_identify _)).tryThen fun v s1 =>
    ((advanced_setIdcode v s1).trans (worked_powerUp _).advanced).tryThen fun _ s2 =>
      (ran_memApInit s2).advanced.tryThen fun _ s3 => advanced_setConnection _ s3

theorem advanced_disconnect (s : State) : Advanced s (disconnect s) :=
  (ran_lineReset s).advanced.trans (advanced_setConnection _ _)

theorem advanced_isConnected (s : State) : Advanced s (isConnected s).2 := by
  unfold isConnected
  have h := (ran_readIdcode s).advanced
  split
  · exact Advanced.refl s
  · split
    · rename_i v s1 heq
      rw [heq] at h
      exact h.trans (advanced_setIdcode _ _)
    · rename_i c s1 heq
      rw [heq] at h
      exact h.trans (advanced_setConnection _ _)

theorem advanced_driveNreset (b : Bool) (s : State) : Advanced s (driveNreset b s) :=
  ⟨rfl, ⟨0, rfl⟩, ⟨[.nrst b], rfl⟩, ⟨rfl, rfl⟩, fun h => h⟩

theorem advanced_resetTarget (s : State) : Advanced s (resetTarget s).2 := by
  unfold resetTarget
  split
  · exact (advanced_driveNreset _ s).trans <| (ran_delay _ _).advanced.trans <| (advanced_driveNreset _ _).trans <|
      (ran_delay _ _).advanced.trans (advanced_connect _)
  · exact Advanced.refl s

theorem advanced_scanPorts (n k : Nat) (s : State) : Advanced s (scanPorts n k s).2 := by
  induction n generalizing k s with
  | zero => exact advanced_setCtrlApIndex _ s
  | succ n ih =>
    unfold scanPorts
    dsimp only
    have h1 := (advanced_mapSeqRegs (fun r => { r with scan := BitVec.ofNat 9 k }) s).trans
      (ran_selectAp (BitVec.ofNat 8 k) (s.mapSeqRegs fun r => { r with scan := BitVec.ofNat 9 k }).cfg.power.apIdr
        (s.mapSeqRegs fun r => { r with scan := BitVec.ofNat 9 k })).advanced
    split
    · rename_i c s1 heq
      rw [heq] at h1
      exact h1.trans (ih _ _)
    · rename_i v s1 heq
      rw [heq] at h1
      have h2 := h1.trans (ran_apRead (regLow s1.cfg.power.apIdr) s1).advanced
      split
      · rename_i c s2 heq2
        rw [heq2] at h2
        exact h2.trans (ih _ _)
      · rename_i w s2 heq2
        rw [heq2] at h2
        split
        · exact h2.trans (advanced_setCtrlApIndex _ _)
        · exact h2.trans (ih _ _)

theorem Advanced.ite {s : State} {c : Prop} [Decidable c] {x y : State} (hx : Advanced s x) (hy : Advanced s y) :
    Advanced s (if c then x else y) := by
  split <;> assumption

theorem advanced_setFirstErr (e : Option ErrCode) (s : State) : Advanced s (setFirstErr e s) :=
  advanced_mapSeqRegs _ s

theorem advanced_setPollsLeft (n : Nat) (s : State) : Advanced s (setPollsLeft n s) := advanced_mapSeqRegs _ s

theorem advanced_note {α : Type} {s : State} {r : Res α} (h : Advanced s r.2) : Advanced s (note r) := by
  obtain ⟨v, u⟩ := r
  cases v with
  | ok a => exact h
  | error c =>
    unfold note
    dsimp only
    split
    · exact h.trans (advanced_mapSeqRegs _ _)
    · exact h

theorem advanced_ifNoErr {f : State → State} (hf : ∀ u, Advanced u (f u)) (s : State) : Advanced s (ifNoErr f s) := by
  unfold ifNoErr
  split
  · exact hf s
  · exact Advanced.refl s

theorem advanced_statusPoll (total n : Nat) (s : State) : Advanced s (statusPoll total n s) := by
  induction n generalizing s with
  | zero => exact advanced_setFirstErr _ s
  | succ n ih =>
    have h := (ran_apRead (regLow s.cfg.ctrlAp.ctrlapEraseAllStatus) s).advanced.trans (advanced_setPollsLeft n _)
    unfold statusPoll
    dsimp only
    exact Advanced.ite (h.trans (worked_progress _ _ _ _).advanced)
      ((h.trans (worked_progress _ _ _ _).advanced).trans ((worked_delayIfMore _ _ _).advanced.trans (ih _)))

theorem advanced_erasePhase (s : State) : Advanced s (erasePhase s) := by
  unfold erasePhase
  refine Advanced.trans ?_ (advanced_ifNoErr (fun u => (advanced_mapSeqRegs _ u).trans (advanced_statusPoll _ _ _)) _)
  refine Advanced.trans ?_ (advanced_ifNoErr (fun u => advanced_note (ran_apWrite _ _ u).advanced) _)
  split
  · exact advanced_note (ran_apWrite _ _ s).advanced
  · exact Advanced.refl s

theorem advanced_leavePhase (s : State) : Advanced s (leavePhase s) := by
  unfold leavePhase
  exact (advanced_note (ran_apWrite _ _ s).advanced).trans (advanced_note (ran_selectAp _ _ _).advanced)

theorem ran_verifyAddrs (as : List Word) (b : Bool) (s : State) : Ran s (verifyAddrs as b s).2 := by
  induction as generalizing b s with
  | nil => exact Ran.refl s
  | cons a as ih => exact (ran_memReadWord _ s).tryThen fun v u => ih _ u

theorem advanced_verifyPhase (i : ApIndex) (s : State) : Advanced s (verifyPhase i s).2 :=
  (ran_verifyAddrs _ _ s).advanced.tryThen fun v s1 => (ran_selectAp _ _ s1).advanced.tryThen fun _ s2 => by
    have h := (ran_apRead (regLow s2.cfg.ctrlAp.ctrlapApprotectStatus) s2).advanced.trans
      (advanced_note (ran_selectAp
        (apRead (regLow s2.cfg.ctrlAp.ctrlapApprotectStatus) s2).2.cfg.power.memApIndex
        (apRead (regLow s2.cfg.ctrlAp.ctrlapApprotectStatus) s2).2.cfg.power.apCsw _).advanced)
    dsimp only
    split
    · exact h
    · split
      · exact h
      · split <;> exact h

theorem advanced_massErase (s : State) : Advanced s (massErase s).2 := by
  unfold massErase
  refine Advanced.tryThen
    ((advanced_scanPorts _ _ s).trans ((advanced_mapSeqRegs _ _).trans (ran_selectAp _ _ _).advanced)) fun _ s1 => ?_
  dsimp only
  have h := (advanced_erasePhase s1).trans (advanced_leavePhase _)
  split
  · exact h
  · exact h.trans <| ((advanced_disconnect _).trans (advanced_connect _)).tryThen fun _ s3 =>
      (ran_memApInit s3).advanced.tryThen fun _ s4 => advanced_verifyPhase _ s4

end Sys2Proof.Machine
end

