-- ==== Sys2Proof/Laws/Memory.lean ====
section
/-! SUPPORT. The host's buffer: every memory operation keeps the canonical form, a read after a write, and equal contents are
equal data. -/

namespace Sys2Proof.Machine

theorem wfWith_cons {d b : Byte} {k : Nat} {rest : Memory} :
    Memory.wfWith d ((k, b) :: rest) = true
      ↔ b ≠ d ∧ k < 2 ^ 32 ∧ (∀ c ∈ rest, k < c.1) ∧ Memory.wfWith d rest = true := by
  simp [Memory.wfWith, and_assoc]

/-- Below every listed address nothing is listed. -/
theorem readWith_below {d : Byte} {a : Nat} {m : Memory} (h : ∀ c ∈ m, a < c.1) : Memory.readWith d m a = d := by
  induction m with
  | nil => rfl
  | cons c rest ih =>
    obtain ⟨k, b⟩ := c
    have hk : a < k := h (k, b) (by simp)
    simp only [Memory.readWith, show ¬ k = a by omega, if_false]
    exact ih fun c hc => h c (by simp [hc])

/-- A write lists no address but the old ones and its own. -/
theorem mem_writeWith {d b : Byte} {a : Nat} {m : Memory} {c : Host.Cell} (h : c ∈ Memory.writeWith d m a b) :
    c ∈ m ∨ c.1 = a := by
  induction m with
  | nil =>
    simp only [Memory.writeWith] at h
    split at h <;> simp_all
  | cons x rest ih =>
    obtain ⟨k, e⟩ := x
    simp only [Memory.writeWith] at h
    split at h
    · split at h <;> simp_all
      grind
    · split at h
      · split at h <;> simp_all
        grind
      · rcases List.mem_cons.1 h with h | h
        · simp [h]
        · rcases ih h with h | h <;> simp [h]

/-- A write keeps the canonical form. -/
theorem wfWith_writeWith {d b : Byte} {a : Nat} {m : Memory} (h : Memory.wfWith d m = true) (ha : a < 2 ^ 32) :
    Memory.wfWith d (Memory.writeWith d m a b) = true := by
  induction m with
  | nil =>
    simp only [Memory.writeWith]
    split
    · rfl
    · simp_all [Memory.wfWith]
  | cons x rest ih =>
    obtain ⟨k, e⟩ := x
    obtain ⟨he, hk, hlt, hrest⟩ := wfWith_cons.1 h
    simp only [Memory.writeWith]
    split
    · split
      · exact h
      · refine wfWith_cons.2 ⟨by assumption, ha, ?_, h⟩
        intro c hc
        rcases List.mem_cons.1 hc with rfl | hc
        · assumption
        · have := hlt c hc; omega
    · split
      · split
        · exact hrest
        · rename_i hak hb
          exact wfWith_cons.2 ⟨hb, ha, fun c hc => hak ▸ hlt c hc, hrest⟩
      · refine wfWith_cons.2 ⟨he, hk, ?_, ih hrest⟩
        intro c hc
        rcases mem_writeWith hc with hc | hc
        · exact hlt c hc
        · omega

/-- A read of the address just written. -/
theorem readWith_writeWith_same {d b : Byte} {a : Nat} {m : Memory} (h : Memory.wfWith d m = true) :
    Memory.readWith d (Memory.writeWith d m a b) a = b := by
  induction m with
  | nil =>
    simp only [Memory.writeWith]
    split <;> simp_all [Memory.readWith]
  | cons x rest ih =>
    obtain ⟨k, e⟩ := x
    obtain ⟨he, hk, hlt, hrest⟩ := wfWith_cons.1 h
    simp only [Memory.writeWith]
    split
    · split
      · rename_i hlt' hb
        rw [hb]
        exact readWith_below (by
          intro c hc
          rcases List.mem_cons.1 hc with rfl | hc
          · assumption
          · have := hlt c hc; omega)
      · simp [Memory.readWith]
    · split
      · split
        · rename_i hak hb
          rw [hb]
          exact readWith_below fun c hc => hak ▸ hlt c hc
        · simp [Memory.readWith]
      · rename_i h1 h2
        simp only [Memory.readWith, show ¬ k = a from fun h => h2 h.symm, if_false]
        exact ih hrest

/-- A write leaves every other address alone. -/
theorem readWith_writeWith_other {d b : Byte} {a c : Nat} {m : Memory} (h : Memory.wfWith d m = true) (hne : c ≠ a) :
    Memory.readWith d (Memory.writeWith d m a b) c = Memory.readWith d m c := by
  induction m with
  | nil =>
    simp only [Memory.writeWith]
    split <;> simp [Memory.readWith, Ne.symm hne]
  | cons x rest ih =>
    obtain ⟨k, e⟩ := x
    obtain ⟨he, hk, hlt, hrest⟩ := wfWith_cons.1 h
    simp only [Memory.writeWith]
    split
    · split
      · rfl
      · simp [Memory.readWith, Ne.symm hne]
    · split
      · rename_i hak
        subst hak
        split <;> simp [Memory.readWith, Ne.symm hne]
      · simp only [Memory.readWith]
        split
        · rfl
        · exact ih hrest

/-- The buffer after a write is canonical. -/
theorem wf_write {m : Memory} (i : Word) (b : Byte) (h : m.wf = true) : (m.write i b).wf = true :=
  wfWith_writeWith h i.isLt

/-- `data[i]` after `data[i]` was written. -/
theorem read_write_same {m : Memory} (i : Word) (b : Byte) (h : m.wf = true) : (m.write i b).read i = b :=
  readWith_writeWith_same h

/-- `data[j]` after another byte was written. -/
theorem read_write_other {m : Memory} (i j : Word) (b : Byte) (h : m.wf = true) (hne : j ≠ i) :
    (m.write i b).read j = m.read j :=
  readWith_writeWith_other h fun e => hne (BitVec.eq_of_toNat_eq e)

/-- A buffer built from bytes is canonical. -/
theorem wf_ofBytesAt (i : Nat) (bs : List Byte) : (Memory.ofBytesAt i bs).wf = true := by
  induction bs generalizing i with
  | nil => rfl
  | cons b bs ih => exact wf_write _ _ (ih _)

theorem wf_ofBytes (bs : List Byte) : (Memory.ofBytes bs).wf = true := wf_ofBytesAt 0 bs

/-- `data[i]` of a buffer built from bytes is its i-th byte. -/
theorem read_ofBytesAt (i : Nat) (bs : List Byte) (k : Nat) (h : i + bs.length ≤ 2 ^ 32) (hk : k < bs.length) :
    (Memory.ofBytesAt i bs).read (BitVec.ofNat 32 (i + k)) = bs[k] := by
  induction bs generalizing i k with
  | nil => simp at hk
  | cons b bs ih =>
    simp only [List.length_cons] at h hk
    cases k with
    | zero => exact read_write_same _ b (wf_ofBytesAt (i + 1) bs)
    | succ k =>
      rw [Memory.ofBytesAt, read_write_other _ _ _ (wf_ofBytesAt (i + 1) bs)]
      · have := ih (i + 1) k (by omega) (by omega)
        rw [show i + (k + 1) = i + 1 + k by omega, this]
        simp
      · intro he
        have := congrArg BitVec.toNat he
        simp only [BitVec.toNat_ofNat] at this
        rw [Nat.mod_eq_of_lt (by omega), Nat.mod_eq_of_lt (by omega)] at this
        omega

/-- At reset nothing is listed. -/
theorem reset_buffer_wf : State.reset.inputs.buffer.wf = true := rfl

/-- The block's read of its buffer port: the byte, the port's index and byte, nothing else (R27, R125). -/
theorem readBuf_eq (i : Nat) (s : State) :
    readBuf i s
      = (s.inputs.buffer.read (BitVec.ofNat 32 i),
          { s with
            ports :=
              { s.ports with
                bufIndex := BitVec.ofNat 32 i
                bufByte := s.inputs.buffer.read (BitVec.ofNat 32 i) } }) := rfl

end Sys2Proof.Machine
end

