-- ==== Sys2Proof/Laws/Scripts.lean ====
section
/-! SUPPORT. Scripts compose: from the answers of a script on the line, what an operation returns and that it played the script;
one lemma per accessor and per kind of poll, failed attempts included, and the rule for `try`. -/

namespace Sys2Proof.Machine

@[simp] theorem actEvents_nil (cfg : Params) : actEvents cfg [] = [] := rfl
@[simp] theorem actAnswers_nil (cfg : Params) : actAnswers cfg [] = [] := rfl
@[simp] theorem actEvents_cons (cfg : Params) (a : Act) (as : List Act) :
    actEvents cfg (a :: as) = a.events cfg ++ actEvents cfg as := by simp [actEvents]
@[simp] theorem actAnswers_cons (cfg : Params) (a : Act) (as : List Act) :
    actAnswers cfg (a :: as) = a.answer cfg ++ actAnswers cfg as := by simp [actAnswers]
@[simp] theorem actEvents_append (cfg : Params) (as bs : List Act) :
    actEvents cfg (as ++ bs) = actEvents cfg as ++ actEvents cfg bs := by simp [actEvents]
@[simp] theorem actAnswers_append (cfg : Params) (as bs : List Act) :
    actAnswers cfg (as ++ bs) = actAnswers cfg as ++ actAnswers cfg bs := by simp [actAnswers]

/-- Nothing on the wire plays the empty script. -/
theorem Played.nil {s : State} (h : Parked s) : Played [] s.inputs.line s s :=
  ⟨by simp, rfl, h, rfl, rfl⟩

/-- Two scripts one after the other. -/
theorem Played.append {as bs : List Act} {r1 r2 : List (Option Bool)} {s t u : State} (h : Played as r1 s t)
    (k : Played bs r2 t u) : Played (as ++ bs) r2 s u := by
  obtain ⟨h1, h2, -, h4, h5⟩ := h
  obtain ⟨k1, k2, k3, k4, k5⟩ := k
  refine ⟨?_, ?_, k3, k4.trans h4, k5.trans h5⟩
  · rw [k1, h1, h4, actEvents_append, List.append_assoc]
  · rw [k2, h2]

/-- The answers of two scripts are those of the first and, behind it, those of the second. -/
theorem Answers.split {as bs : List Act} {rest : List (Option Bool)} {s : State} (h : Answers (as ++ bs) rest s) :
    Answers as ((actAnswers s.cfg bs).map some ++ rest) s := by
  simpa [Answers, LineShows, List.append_assoc] using h

/-- What stands on the line when the first script was played. -/
theorem Answers.after {as bs : List Act} {rest : List (Option Bool)} {s t : State}
    (h : Played as ((actAnswers s.cfg bs).map some ++ rest) s t) : Answers bs rest t := by
  obtain ⟨-, h2, -, h4, -⟩ := h
  simp [Answers, LineShows, h2, h4]

/-- From every parked state of configuration `cfg` that the script answers, `f` returns `v` and plays the script. -/
def Runs {α : Type} (cfg : Params) (acts : List Act) (f : State → Res α) (v : Except ErrCode α) : Prop :=
  ∀ (s : State) (rest : List (Option Bool)), s.cfg = cfg → Parked s → Answers acts rest s →
    (f s).1 = v ∧ Played acts rest s (f s).2

/-- `try` of an operation that returns a value goes on with the value (R12). -/
theorem Runs.tryThen {α β : Type} {cfg : Params} {as bs : List Act} {f : State → Res α} {k : α → State → Res β} {a : α}
    {v : Except ErrCode β} (h : Runs cfg as f (.ok a)) (hk : Runs cfg bs (k a) v) :
    Runs cfg (as ++ bs) (fun s => Machine.tryThen (f s) k) v := by
  intro s rest hc hp ha
  obtain ⟨h1, h2⟩ := h s _ hc hp ha.split
  obtain ⟨k1, k2⟩ := hk (f s).2 rest (h2.2.2.2.1.trans hc) h2.2.2.1 (Answers.after h2)
  have he : Machine.tryThen (f s) k = k a (f s).2 := by
    generalize hf : f s = r at h1 ⊢
    obtain ⟨v', t⟩ := r
    simp only at h1
    subst h1
    rfl
  dsimp only
  rw [he]
  exact ⟨k1, h2.append k2⟩

/-- `try` of an operation that fails fails (R12). -/
theorem Runs.tryThen_error {α β : Type} {cfg : Params} {as : List Act} {f : State → Res α} {k : α → State → Res β}
    {c : ErrCode} (h : Runs cfg as f (.error c)) : Runs cfg as (fun s => Machine.tryThen (f s) k) (.error c) := by
  intro s rest hc hp ha
  obtain ⟨h1, h2⟩ := h s rest hc hp ha
  have he : Machine.tryThen (f s) k = (.error c, (f s).2) := by
    generalize hf : f s = r at h1 ⊢
    obtain ⟨v', t⟩ := r
    simp only at h1
    subst h1
    rfl
  dsimp only
  rw [he]
  exact ⟨rfl, h2⟩

theorem Runs.pure {α : Type} (cfg : Params) (v : Except ErrCode α) : Runs cfg [] (fun s => (v, s)) v := by
  intro s rest _ hp ha
  have hl : s.inputs.line = rest := by simpa [Answers, LineShows] using ha
  exact ⟨rfl, hl ▸ Played.nil hp⟩

theorem Runs.congr {α : Type} {cfg : Params} {as : List Act} {f g : State → Res α} {v : Except ErrCode α}
    (h : Runs cfg as f v) (hfg : ∀ s, s.cfg = cfg → g s = f s) : Runs cfg as g v := by
  intro s rest hc hp ha
  rw [hfg s hc]
  exact h s rest hc hp ha

/-! ### Transfers -/

theorem entryTurn_parked {s : State} (h : Parked s) : entryTurn s = [] := by
  simp [entryTurn, h.2]

/-- What `afterTransfer` of a parked state is. -/
theorem played_afterTransfer {s : State} {lr : LinkRegs} {st : XferStatus} {rest : List (Option Bool)} {a : Act}
    (h : Parked s) : Played [a] rest s (afterTransfer s lr st rest (a.events s.cfg)) :=
  ⟨by simp [entryTurn_parked h], rfl, ⟨⟨rfl, rfl, rfl⟩, rfl⟩, rfl, rfl⟩

/-- A transfer's status, data and script, for each act a transfer can be. -/
theorem rawTransfer_plays_read {s : State} {rest : List (Option Bool)} (addr : Addr4) (isAP : Bool) (w d : Word)
    (h : Parked s) (ha : Answers [.read addr isAP d] rest s) :
    (rawTransfer addr isAP true w s).status = .ok ∧ (rawTransfer addr isAP true w s).rdata = d
      ∧ Played [.read addr isAP d] rest s (rawTransfer addr isAP true w s).st := by
  have hl : LineShows (okReadAnswer s.cfg d (parity32 d)) rest s := by simpa [Answers, Act.answer] using ha
  rw [rawTransfer_read addr isAP w d _ rest s hl]
  exact ⟨by simp, rfl, played_afterTransfer h⟩

theorem rawTransfer_plays_garbled {s : State} {rest : List (Option Bool)} (addr : Addr4) (isAP : Bool) (w d : Word)
    (h : Parked s) (ha : Answers [.garbled addr isAP d] rest s) :
    (rawTransfer addr isAP true w s).status = .parity
      ∧ Played [.garbled addr isAP d] rest s (rawTransfer addr isAP true w s).st := by
  have hl : LineShows (okReadAnswer s.cfg d (!parity32 d)) rest s := by simpa [Answers, Act.answer] using ha
  rw [rawTransfer_read addr isAP w d _ rest s hl]
  exact ⟨by simp, played_afterTransfer h⟩

theorem rawTransfer_plays_write {s : State} {rest : List (Option Bool)} (addr : Addr4) (isAP : Bool) (w : Word)
    (h : Parked s) (ha : Answers [.write addr isAP w] rest s) :
    (rawTransfer addr isAP false w s).status = .ok
      ∧ Played [.write addr isAP w] rest s (rawTransfer addr isAP false w s).st := by
  have hl : LineShows (lsbBits s.cfg.engine.ackOk 3) rest s := by simpa [Answers, Act.answer] using ha
  rw [rawTransfer_write addr isAP w rest s hl]
  exact ⟨rfl, played_afterTransfer h⟩

theorem rawTransfer_plays_turnedAway {s : State} {rest : List (Option Bool)} (addr : Addr4) (isAP isRead : Bool) (w : Word)
    (ack : BitVec 3) (hne : ack ≠ s.cfg.engine.ackOk) (h : Parked s)
    (ha : Answers [.turnedAway addr isAP isRead ack] rest s) :
    (rawTransfer addr isAP isRead w s).status = decodeAck s.cfg ack
      ∧ Played [.turnedAway addr isAP isRead ack] rest s (rawTransfer addr isAP isRead w s).st := by
  have hl : LineShows (lsbBits ack 3) rest s := by simpa [Answers, Act.answer] using ha
  rw [rawTransfer_notOk addr isAP isRead w ack rest s hne hl]
  exact ⟨rfl, played_afterTransfer h⟩

/-- A change of the working registers shows on no script. -/
theorem Played.mapLinkRegs {as : List Act} {rest : List (Option Bool)} {s t : State} (f : LinkRegs → LinkRegs)
    (h : Played as rest s t) : Played as rest s (t.mapLinkRegs f) := h

theorem Played.mapSeqRegs {as : List Act} {rest : List (Option Bool)} {s t : State} (f : SeqRegs → SeqRegs)
    (h : Played as rest s t) : Played as rest s (t.mapSeqRegs f) := h

/-- A delay plays its pause (R362). -/
theorem Played.delay {as : List Act} {rest : List (Option Bool)} {s t : State} (p : DelayName)
    (h : Played as rest s t) : Played (as ++ [.pause p]) rest s (Machine.delay p t) := by
  obtain ⟨h1, h2, h3, h4, h5⟩ := h
  exact ⟨by simp [Act.events, h1], h2, h3, h4, h5⟩

/-- The response of an operation leaves what its script left. -/
theorem Played.respond {as : List Act} {rest : List (Option Bool)} {s t : State} (v : Except ErrCode (Option Word))
    (h : Played as rest s t) : Played as rest s (Machine.respond (v, t)) := by
  obtain ⟨h1, h2, h3, h4, h5⟩ := h
  cases v with
  | error c => exact ⟨h1, h2, h3, h4, h5⟩
  | ok x =>
    cases x with
    | none => exact ⟨h1, h2, h3, h4, h5⟩
    | some w => exact ⟨h1, h2, h3, h4, h5⟩

/-! ### The retry loop and the accessors -/

/-- What an OK attempt returns: the data of a read, nothing of a write. -/
def okValue (isRead : Bool) (data : Word) : Word := if isRead then data else 0#32

theorem retryLoop_ok (addr : Addr4) (isAP isRead : Bool) (w d : Word) (n k : Nat) {s : State}
    {rest : List (Option Bool)} (h : Parked s) (ha : Answers [okAct addr isAP isRead w d] rest s) :
    ∃ v t, retryLoop addr isAP isRead w (n + 1) k s = (.ok v, t) ∧ (isRead = true → v = d)
      ∧ Played [okAct addr isAP isRead w d] rest s t := by
  cases isRead with
  | true =>
    obtain ⟨h1, h2, h3⟩ := rawTransfer_plays_read addr isAP w d h (by simpa [okAct] using ha)
    refine ⟨d, (rawTransfer addr isAP true w s).st.mapLinkRegs fun r => { r with attempt := BitVec.ofNat 4 (k + 1) },
      ?_, fun _ => rfl, ?_⟩
    · simp [retryLoop, h1, h2]
    · exact h3.mapLinkRegs _
  | false =>
    obtain ⟨h1, h3⟩ := rawTransfer_plays_write addr isAP w h (by simpa [okAct] using ha)
    refine ⟨(rawTransfer addr isAP false w s).rdata,
      (rawTransfer addr isAP false w s).st.mapLinkRegs fun r => { r with attempt := BitVec.ofNat 4 (k + 1) },
      ?_, by simp, ?_⟩
    · simp [retryLoop, h1]
    · exact h3.mapLinkRegs _

/-- `retry` whose first attempt is acknowledged OK (R197). -/
theorem retry_ok (addr : Addr4) (isAP isRead : Bool) (w d : Word) {s : State} {rest : List (Option Bool)}
    (hm : 1 ≤ s.cfg.engine.maxAttempts) (h : Parked s) (ha : Answers [okAct addr isAP isRead w d] rest s) :
    ∃ v t, retry addr isAP isRead w s = (.ok v, t) ∧ (isRead = true → v = d)
      ∧ Played [okAct addr isAP isRead w d] rest s t := by
  obtain ⟨n, hn⟩ : ∃ n, s.cfg.engine.maxAttempts = n + 1 := ⟨s.cfg.engine.maxAttempts - 1, by omega⟩
  unfold retry
  rw [hn]
  exact retryLoop_ok addr isAP isRead w d n 0 (s := s.mapLinkRegs fun r => { r with attempt := 0#4 }) h ha

theorem runs_dpRead {cfg : Params} (hm : 1 ≤ cfg.engine.maxAttempts) (addr : Addr4) (d : Word) :
    Runs cfg [.read addr false d] (dpRead addr) (.ok d) := by
  intro s rest hc hp ha
  obtain ⟨v, t, h1, h2, h3⟩ := retry_ok addr false true 0#32 d (by rw [hc]; exact hm) hp ha
  rw [dpRead, h1, h2 rfl]
  exact ⟨rfl, h3⟩

theorem runs_dpWrite {cfg : Params} (hm : 1 ≤ cfg.engine.maxAttempts) (addr : Addr4) (w : Word) :
    Runs cfg [.write addr false w] (dpWrite addr w) (.ok ()) := by
  intro s rest hc hp ha
  obtain ⟨v, t, h1, -, h3⟩ := retry_ok addr false false w 0#32 (by rw [hc]; exact hm) hp ha
  rw [dpWrite, h1, tryThen_ok]
  exact ⟨rfl, h3⟩

theorem runs_apWrite {cfg : Params} (hm : 1 ≤ cfg.engine.maxAttempts) (addr : Addr4) (w : Word) :
    Runs cfg [.write addr true w] (apWrite addr w) (.ok ()) := by
  intro s rest hc hp ha
  obtain ⟨v, t, h1, -, h3⟩ := retry_ok addr true false w 0#32 (by rw [hc]; exact hm) hp ha
  rw [apWrite, h1, tryThen_ok]
  exact ⟨rfl, h3⟩

theorem runs_apPost {cfg : Params} (hm : 1 ≤ cfg.engine.maxAttempts) (addr : Addr4) (d : Word) :
    Runs cfg [.read addr true d] (retry addr true true 0#32) (.ok d) := by
  intro s rest hc hp ha
  obtain ⟨v, t, h1, h2, h3⟩ := retry_ok addr true true 0#32 d (by rw [hc]; exact hm) hp ha
  rw [h1, h2 rfl]
  exact ⟨rfl, h3⟩

theorem runs_apRead {cfg : Params} (hm : 1 ≤ cfg.engine.maxAttempts) (addr : Addr4) (stale v : Word) :
    Runs cfg (apReadActs cfg addr stale v) (apRead addr) (.ok v) :=
  (runs_apPost hm addr stale).tryThen
    ((runs_dpRead hm cfg.engine.dpRdbuff v).congr fun s hc => by rw [hc])

theorem runs_selectAp {cfg : Params} (hm : 1 ≤ cfg.engine.maxAttempts) (i : ApIndex) (r : Reg8) :
    Runs cfg [selectAct cfg i r] (selectAp i r) (.ok ()) :=
  (runs_dpWrite hm cfg.engine.dpSelect (selectWord i r)).congr fun s hc => by rw [selectAp, hc]

theorem runs_memReadWord {cfg : Params} (hm : 1 ≤ cfg.engine.maxAttempts) (addr stale v : Word)
    (ha : wordAligned addr = true) : Runs cfg (memReadActs cfg addr stale v) (memReadWord addr) (.ok v) :=
  ((runs_apWrite hm (regLow cfg.power.apTar) addr).tryThen
    (k := fun _ s => apRead (regLow s.cfg.power.apDrw) s)
    ((runs_apRead hm (regLow cfg.power.apDrw) stale v).congr fun s hc => by rw [hc])).congr
      fun s hc => by simp [memReadWord, ha, hc]

theorem runs_memWriteWord {cfg : Params} (hm : 1 ≤ cfg.engine.maxAttempts) (addr v : Word)
    (ha : wordAligned addr = true) : Runs cfg (memWriteActs cfg addr v) (memWriteWord addr v) (.ok ()) :=
  ((runs_apWrite hm (regLow cfg.power.apTar) addr).tryThen
    (k := fun _ s => apWrite (regLow s.cfg.power.apDrw) v s)
    ((runs_apWrite hm (regLow cfg.power.apDrw) v).congr fun s hc => by rw [hc])).congr
      fun s hc => by simp [memWriteWord, ha, hc]

theorem runs_memApInit {cfg : Params} (hm : 1 ≤ cfg.engine.maxAttempts) :
    Runs cfg (memApActs cfg) memApInit (.ok ()) :=
  ((runs_selectAp hm cfg.power.memApIndex cfg.power.apCsw).tryThen
    (k := fun _ s => apWrite (regLow s.cfg.power.apCsw) s.cfg.power.cswWordValue s)
    ((runs_apWrite hm (regLow cfg.power.apCsw) cfg.power.cswWordValue).congr fun s hc => by rw [hc])).congr
      fun s hc => by simp [memApInit, hc]

/-- A mode switch: what it returns is decided by the read-back (R241). -/
theorem runs_setControllerMode {cfg : Params} (hm : 1 ≤ cfg.engine.maxAttempts) (m : NvmcMode) (back : Word × Word)
    (hn : wordAligned cfg.flash.nvmcConfig = true) :
    Runs cfg (modeActs cfg m back) (setControllerMode m)
      (if back.2 &&& cfg.flash.nvmcModeMask = modeCode cfg m then .ok () else .error .eMode) := by
  refine ((runs_memWriteWord hm cfg.flash.nvmcConfig (modeCode cfg m) hn).tryThen
    (k := fun _ s1 => Machine.tryThen (memReadWord s1.cfg.flash.nvmcConfig s1) fun v s2 =>
      if v &&& s2.cfg.flash.nvmcModeMask = modeCode s2.cfg m then (.ok (), s2) else (.error .eMode, s2))
    ?_).congr fun s hc => by simp [setControllerMode, hc]
  have hread := ((runs_memReadWord hm cfg.flash.nvmcConfig back.1 back.2 hn).tryThen
    (k := fun v s2 =>
      if v &&& s2.cfg.flash.nvmcModeMask = modeCode s2.cfg m then (.ok (), s2) else (.error .eMode, s2))
    (v := if back.2 &&& cfg.flash.nvmcModeMask = modeCode cfg m then .ok () else .error .eMode)
    (bs := []) ?_)
  · rw [List.append_nil] at hread
    exact hread.congr fun s hc => by rw [hc]
  · split
    · rename_i h
      exact (Runs.pure cfg _).congr fun s hc => by simp [hc, h]
    · rename_i h
      exact (Runs.pure cfg _).congr fun s hc => by simp [hc, h]

/-! ### Failed attempts and polls (R197, D17, D23) -/

/-- The recovery write plays its act, whatever its acknowledgement, and keeps `LAST` (R202). -/
theorem clearSticky_plays {s : State} {rest : List (Option Bool)} (clr : BitVec 3) (h : Parked s)
    (ha : Answers [clearAct s.cfg clr] rest s) :
    Played [clearAct s.cfg clr] rest s (clearSticky s) ∧ (clearSticky s).linkRegs.last = s.linkRegs.last := by
  unfold clearAct at ha ⊢
  unfold clearSticky
  split at ha
  · rename_i hc
    have hl : LineShows (lsbBits s.cfg.engine.ackOk 3) rest s := by simpa [Answers, Act.answer] using ha
    rw [if_pos hc]
    exact ⟨(rawTransfer_plays_write _ _ _ h ha).2, by rw [rawTransfer_write _ _ _ rest s hl]⟩
  · rename_i hc
    have hl : LineShows (lsbBits clr 3) rest s := by simpa [Answers, Act.answer] using ha
    rw [if_neg hc]
    exact ⟨(rawTransfer_plays_turnedAway _ _ _ _ _ hc h ha).2, by rw [rawTransfer_notOk _ _ _ _ clr rest s hc hl]⟩

/-- The recovery write behind a script (R202). -/
theorem Played.clearSticky {as : List Act} {rest : List (Option Bool)} {s t : State} (clr : BitVec 3)
    (h : Played as ((actAnswers s.cfg [clearAct s.cfg clr]).map some ++ rest) s t) :
    Played (as ++ [clearAct s.cfg clr]) rest s (Machine.clearSticky t)
      ∧ (Machine.clearSticky t).linkRegs.last = t.linkRegs.last := by
  have hc : t.cfg = s.cfg := h.2.2.2.1
  obtain ⟨h1, h2⟩ := clearSticky_plays (s := t) clr h.2.2.1 (by rw [hc]; exact Answers.after h)
  rw [hc] at h1
  exact ⟨h.append h1, h2⟩

/-- A failed attempt and its recovery bring the loop one attempt on, with the attempt's kind in `LAST` (R197). -/
theorem retryLoop_failed (addr : Addr4) (isAP isRead : Bool) (w : Word) (n k : Nat) (f : Attempt) {s : State}
    {rest : List (Option Bool)} (hd : AckCodesDistinct s.cfg) (hf : f.possible s.cfg isRead) (h : Parked s)
    (ha : Answers (f.acts s.cfg addr isAP isRead) rest s) :
    ∃ t, retryLoop addr isAP isRead w (n + 1) k s = retryLoop addr isAP isRead w n (k + 1) t
      ∧ Played (f.acts s.cfg addr isAP isRead) rest s t ∧ t.linkRegs.last.error = f.code := by
  obtain ⟨d1, d2, d3⟩ := hd
  -- the state that counts the attempt and notes its kind
  let noted : FailKind → State := fun kind =>
    setLast kind ((rawTransfer addr isAP isRead w s).st.mapLinkRegs fun r => { r with attempt := BitVec.ofNat 4 (k + 1) })
  have notes : ∀ (kind : FailKind) {as : List Act} {r : List (Option Bool)},
      Played as r s (rawTransfer addr isAP isRead w s).st → Played as r s (noted kind) := fun kind _ _ hx =>
    (hx.mapLinkRegs fun r => { r with attempt := BitVec.ofNat 4 (k + 1) }).mapLinkRegs fun r => { r with last := kind }
  cases f with
  | wait =>
    obtain ⟨h1, h2⟩ := rawTransfer_plays_turnedAway addr isAP isRead w s.cfg.engine.ackWait (Ne.symm d1) h
      (rest := rest) (by simpa [Attempt.acts, Answers, Act.answer] using ha)
    have h3 := notes .wait h2
    refine ⟨delay .waitRetry (noted .wait), ?_, Played.delay .waitRetry h3, rfl⟩
    simp only [retryLoop, h1, decodeAck, if_neg (Ne.symm d1), if_true, noted]
  | fault clr =>
    obtain ⟨h1, h2⟩ := rawTransfer_plays_turnedAway addr isAP isRead w s.cfg.engine.ackFault (Ne.symm d2) h
      (Answers.split (bs := [clearAct s.cfg clr]) ha)
    have h3 := notes .fault h2
    obtain ⟨h4, h5⟩ := h3.clearSticky clr
    refine ⟨clearSticky (noted .fault), ?_, h4, by rw [h5]; rfl⟩
    simp only [retryLoop, h1, decodeAck, if_neg (Ne.symm d2), if_neg (Ne.symm d3), if_true, noted]
  | parity d clr =>
    obtain rfl : isRead = true := hf
    obtain ⟨h1, h2⟩ := rawTransfer_plays_garbled addr isAP w d h (Answers.split (bs := [clearAct s.cfg clr]) ha)
    have h3 := notes .parity h2
    obtain ⟨h4, h5⟩ := h3.clearSticky clr
    refine ⟨clearSticky (noted .parity), ?_, h4, by rw [h5]; rfl⟩
    simp only [retryLoop, h1, noted]
  | reserved a =>
    obtain ⟨f1, f2, f3⟩ := hf
    obtain ⟨h1, h2⟩ := rawTransfer_plays_turnedAway addr isAP isRead w a f1 h ha
    have h3 := notes .other h2
    refine ⟨noted .other, ?_, h3, rfl⟩
    simp only [retryLoop, h1, decodeAck, if_neg f1, if_neg f2, if_neg f3, noted]

/-- The loop behind a list of failed attempts (R197). -/
theorem retryLoop_attempts (addr : Addr4) (isAP isRead : Bool) (w : Word) (n : Nat) (fs : List Attempt) :
    ∀ (k : Nat) {s : State} {rest : List (Option Bool)}, AckCodesDistinct s.cfg → (∀ f ∈ fs, f.possible s.cfg isRead) →
      Parked s → Answers (attemptActs s.cfg addr isAP isRead fs) rest s →
        ∃ t, retryLoop addr isAP isRead w (n + fs.length) k s = retryLoop addr isAP isRead w n (k + fs.length) t
          ∧ Played (attemptActs s.cfg addr isAP isRead fs) rest s t
          ∧ t.linkRegs.last.error = (fs.getLast?.map Attempt.code).getD s.linkRegs.last.error := by
  induction fs with
  | nil =>
    intro k s rest _ _ hp ha
    have hl : s.inputs.line = rest := by simpa [Answers, LineShows, attemptActs] using ha
    exact ⟨s, rfl, hl ▸ Played.nil hp, rfl⟩
  | cons f fs ih =>
    intro k s rest hd hf hp ha
    have ha' : Answers (f.acts s.cfg addr isAP isRead ++ attemptActs s.cfg addr isAP isRead fs) rest s := ha
    obtain ⟨t, h1, h2, h3⟩ :=
      retryLoop_failed addr isAP isRead w (n + fs.length) k f hd (hf f (by simp)) hp ha'.split
    have hc : t.cfg = s.cfg := h2.2.2.2.1
    obtain ⟨u, k1, k2, k3⟩ := ih (k + 1) (s := t) (rest := rest) (by rw [hc]; exact hd)
      (fun g hg => by rw [hc]; exact hf g (by simp [hg])) h2.2.2.1 (by rw [hc]; exact Answers.after h2)
    rw [hc] at k2
    refine ⟨u, ?_, h2.append k2, ?_⟩
    · rw [show n + (f :: fs).length = n + fs.length + 1 from rfl, h1, k1,
        show k + (f :: fs).length = k + 1 + fs.length by simp; omega]
    · rw [k3, h3]
      cases fs with
      | nil => rfl
      | cons g gs => simp [List.getLast?_cons]

/-- `retry` whose whole budget of attempts fails reports the last one's kind (R197e). -/
theorem runs_retry_exhausted {cfg : Params} (hm : 1 ≤ cfg.engine.maxAttempts) (addr : Addr4) (isAP isRead : Bool) (w : Word)
    {fs : List Attempt} (hf : Exhausted cfg isRead fs) :
    ∃ last, fs.getLast? = some last
      ∧ Runs cfg (attemptActs cfg addr isAP isRead fs) (retry addr isAP isRead w) (.error last.code) := by
  obtain ⟨hd, hlen, hp⟩ := hf
  obtain ⟨last, hlast⟩ : ∃ last, fs.getLast? = some last := by
    cases fs with
    | nil => simp at hlen; omega
    | cons g gs => exact ⟨_, List.getLast?_cons⟩
  refine ⟨last, hlast, ?_⟩
  rintro s rest rfl h ha
  obtain ⟨t, h1, h2, h3⟩ := retryLoop_attempts addr isAP isRead w 0 fs 0
    (s := s.mapLinkRegs fun r => { r with attempt := 0#4 }) hd hp h ha
  rw [hlast] at h3
  unfold retry
  rw [← hlen, show fs.length = 0 + fs.length by simp, h1]
  exact ⟨congrArg Except.error h3, h2⟩

/-- A poll by `dpRead` returns the poll's value, or an error where it has none (D23). -/
theorem DpPoll.runs {cfg : Params} (hm : 1 ≤ cfg.engine.maxAttempts) (addr : Addr4) (p : DpPoll) (hp : p.possible cfg) :
    ∃ v, Runs cfg (p.acts cfg addr) (dpRead addr) v ∧ v.toOption = p.value := by
  cases p with
  | saw d => exact ⟨_, runs_dpRead hm addr d, rfl⟩
  | lost fs =>
    obtain ⟨last, -, h⟩ := runs_retry_exhausted hm addr false true 0#32 hp
    exact ⟨_, h, rfl⟩

/-- A poll by `apRead` returns the poll's value, or an error where it has none (R201, D23). -/
theorem ApPoll.runs {cfg : Params} (hm : 1 ≤ cfg.engine.maxAttempts) (addr : Addr4) (p : ApPoll) (hp : p.possible cfg) :
    ∃ v, Runs cfg (p.acts cfg addr) (apRead addr) v ∧ v.toOption = p.value := by
  cases p with
  | saw stale d => exact ⟨_, runs_apRead hm addr stale d, rfl⟩
  | lostPost fs =>
    obtain ⟨last, -, h⟩ := runs_retry_exhausted hm addr true true 0#32 hp
    exact ⟨_, h.tryThen_error, rfl⟩
  | lostBuffer stale fs =>
    obtain ⟨last, -, h⟩ := runs_retry_exhausted hm cfg.engine.dpRdbuff false true 0#32 hp
    exact ⟨_, (runs_apPost hm addr stale).tryThen (h.congr fun s hc => by rw [dpRead, hc]), rfl⟩

/-- A poll that writes a register by `g` and then reads an access-port register returns the poll's value, or an error (R226,
R280, D23). -/
theorem Poll.runs {cfg : Params} (hm : 1 ≤ cfg.engine.maxAttempts) (wAddr : Addr4) (wAP : Bool) (w : Word)
    (g : State → Res Unit) (addr : Params → Addr4) (p : Poll) (hp : p.possible cfg)
    (hw : Runs cfg [.write wAddr wAP w] g (.ok ()))
    (hl : ∀ fs, Exhausted cfg false fs → ∃ c, Runs cfg (attemptActs cfg wAddr wAP false fs) g (.error c)) :
    ∃ v, Runs cfg (p.acts cfg wAddr wAP w (addr cfg)) (fun s => Machine.tryThen (g s) fun _ s1 => apRead (addr s1.cfg) s1) v
      ∧ v.toOption = p.value := by
  cases p with
  | lostWrite fs =>
    obtain ⟨c, h⟩ := hl fs hp
    exact ⟨_, h.tryThen_error, rfl⟩
  | reads q =>
    obtain ⟨v, h, hv⟩ := q.runs hm (addr cfg) hp
    exact ⟨v, hw.tryThen (k := fun _ s1 => apRead (addr s1.cfg) s1) (h.congr fun s hc => by rw [hc]), hv⟩

/-- One poll of the ready register (R240). -/
theorem runs_readyPoll {cfg : Params} (hm : 1 ≤ cfg.engine.maxAttempts) (hn : wordAligned cfg.flash.nvmcReady = true)
    (p : Poll) (hp : p.possible cfg) :
    ∃ v, Runs cfg (readyPollActs cfg p) (memReadWord cfg.flash.nvmcReady) v ∧ v.toOption = p.value := by
  obtain ⟨v, h, hv⟩ := p.runs hm (regLow cfg.power.apTar) true cfg.flash.nvmcReady
    (apWrite (regLow cfg.power.apTar) cfg.flash.nvmcReady) (fun c => regLow c.power.apDrw) hp (runs_apWrite hm _ _)
    fun fs hf => by
      obtain ⟨last, -, h⟩ := runs_retry_exhausted hm (regLow cfg.power.apTar) true false cfg.flash.nvmcReady hf
      exact ⟨_, h.tryThen_error⟩
  exact ⟨v, h.congr fun s hc => by rw [memReadWord, if_pos hn, hc], hv⟩

/-- One index of the scan (R280). -/
theorem runs_scanPoll {cfg : Params} (hm : 1 ≤ cfg.engine.maxAttempts) (i : ApIndex) (p : Poll) (hp : p.possible cfg) :
    ∃ v, Runs cfg (p.acts cfg cfg.engine.dpSelect false (selectWord i cfg.power.apIdr) (regLow cfg.power.apIdr))
        (fun s => Machine.tryThen (selectAp i cfg.power.apIdr s) fun _ s1 => apRead (regLow s1.cfg.power.apIdr) s1) v
      ∧ v.toOption = p.value :=
  p.runs hm cfg.engine.dpSelect false (selectWord i cfg.power.apIdr) (selectAp i cfg.power.apIdr)
    (fun c => regLow c.power.apIdr) hp (runs_selectAp hm _ _) fun fs hf => by
      obtain ⟨last, -, h⟩ :=
        runs_retry_exhausted hm cfg.engine.dpSelect false false (selectWord i cfg.power.apIdr) hf
      exact ⟨_, h.tryThen_error.congr fun s hc => by rw [selectAp, dpWrite, hc]⟩

end Sys2Proof.Machine
end

