-- ==== Sys2Proof/Tests/Slice0.lean ====
section
/-! SUPPORT. Small tests: what well-formedness refuses, the decoding of every constructor from bits written out from the spec's
encodings, one-step tests whose expected values are the spec's own (`95_test_vectors.md`, the rules' examples), and for every
statement with hypotheses a concrete case that meets them all. -/

namespace Sys2Proof.Tests

open Sys2Proof Sys2Proof.Machine

/-! ### Well-formedness refuses -/

theorem test_wf_refuses_write_count : (Instr.writeBits 0xFF#32 33#6).wf = false := by decide
theorem test_wf_refuses_read_count : (Instr.readBits 63#6).wf = false := by decide
theorem test_wf_refuses_ok_in_notOk_frame : (Instr.frameNotOk true true 3#2 1#3).wf = false := by decide
theorem test_wf_accepts_bounds :
    (Instr.writeBits 0xFF#32 32#6).wf = true ∧ (Instr.readBits 0#6).wf = true
      ∧ (Instr.frameNotOk false true 0#2 0#3).wf = true := by decide

/-! ### Decoding: request bytes in wire order (R107) -/

/-- The bits of a string of `0` and `1`. -/
def bits (s : String) : List Bool := s.toList.map fun c => c == '1'

theorem test_decode_requests_dp :
    decode (.wire (bits "10100101")) = .ok .reqDpRead0 ∧ decode (.wire (bits "10110001")) = .ok .reqDpRead4
    ∧ decode (.wire (bits "10101001")) = .ok .reqDpRead8 ∧ decode (.wire (bits "10111101")) = .ok .reqDpReadC
    ∧ decode (.wire (bits "10000001")) = .ok (.reqDpWrite0 0#32)
    ∧ decode (.wire (bits "10010101")) = .ok (.reqDpWrite4 0#32)
    ∧ decode (.wire (bits "10001101")) = .ok (.reqDpWrite8 0#32)
    ∧ decode (.wire (bits "10011001")) = .ok (.reqDpWriteC 0#32) := by decide +kernel

theorem test_decode_requests_ap :
    decode (.wire (bits "11100001")) = .ok .reqApRead0 ∧ decode (.wire (bits "11110101")) = .ok .reqApRead4
    ∧ decode (.wire (bits "11101101")) = .ok .reqApRead8 ∧ decode (.wire (bits "11111001")) = .ok .reqApReadC
    ∧ decode (.wire (bits "11000101")) = .ok (.reqApWrite0 0#32)
    ∧ decode (.wire (bits "11010001")) = .ok (.reqApWrite4 0#32)
    ∧ decode (.wire (bits "11001001")) = .ok (.reqApWrite8 0#32)
    ∧ decode (.wire (bits "11011101")) = .ok (.reqApWriteC 0#32) := by decide +kernel

/-- A write request with its payload 0x80000001, least significant bit first (R110). -/
theorem test_decode_write_payload :
    decode (.wire (bits "1000110110000000000000000000000000000001")) = .ok (.reqDpWrite8 0x80000001#32) := by
  decide +kernel

theorem test_decode_refuses_wire :
    decode (.wire (bits "10100100")) = .error (.badRequestByte 0x25#8)
    ∧ decode (.wire (bits "10100001")) = .error (.badRequestByte 0x85#8)
    ∧ decode (.wire (bits "1010")) = .error (.noSuchFormat 4)
    ∧ decode (.wire (bits "1010010100000000000000000000000000000000")) = .error (.payloadOnRead 0xA5#8) := by
  decide +kernel

/-- The acknowledgements, first sampled bit first (R108, R109). -/
theorem test_decode_acks :
    decode (.wire (bits "000")) = .ok .ackReserved000 ∧ decode (.wire (bits "100")) = .ok .ackOk
    ∧ decode (.wire (bits "010")) = .ok .ackWait ∧ decode (.wire (bits "110")) = .ok .ackReserved011
    ∧ decode (.wire (bits "001")) = .ok .ackFault ∧ decode (.wire (bits "101")) = .ok .ackReserved101
    ∧ decode (.wire (bits "011")) = .ok .ackReserved110 ∧ decode (.wire (bits "111")) = .ok .ackReserved111 := by
  decide

/-- R190's example as a frame: 0xA5, T(0), OK, 0x2BA01477, parity 0, T(1), idle. -/
theorem test_decode_frame_read :
    decode (.wire (bits "101001010100111011100010100000000101110101000010")) = .error (.noSuchFormat 48)
    ∧ decode (.wire (bits "10100101010011101110001010000000010111010100010"))
      = .ok (.frameReadOk false 0#2 0x2BA01477#32 false) := by decide +kernel

/-- R199's example as a frame: 0xB1, T(0), OK, T(1), 0x01000000, parity 1, idle. -/
theorem test_decode_frame_write :
    decode (.wire (bits "10001101010010000000000000000000000001000000010"))
      = .ok (.frameWriteOk false 2#2 0x01000000#32) := by decide +kernel

/-- 0x9F answered WAIT: T(1), 32 dummy bits, idle (R195); a dummy phase that is not zero is no frame. -/
theorem test_decode_frame_wait :
    decode (.wire (bits "1111100100101" ++ List.replicate 33 false)) = .ok (.frameNotOk true true 3#2 2#3)
    ∧ decode (.wire (bits "1111100100101" ++ true :: List.replicate 32 false)) = .error .badFrame := by decide +kernel

/-- The three sequences as R113, R115 and R116 print them. -/
theorem test_decode_sequences :
    decode (.wire (List.replicate 60 true ++ [false])) = .ok .seqLineReset
    ∧ decode (.wire (bits "0111100111100111" ++ List.replicate 60 true ++ [false])) = .ok .seqJtagToSwd
    ∧ decode (.wire (bits "11111111"
        ++ bits "01001001110011111001000001000110101010011011010010100001011000011001011111110101"
        ++ bits "101110111100011101000101011100000011110110011000" ++ bits "0000" ++ bits "01011000"
        ++ List.replicate 60 true ++ [false])) = .ok .seqDormantWake := by decide +kernel

/-! ### Decoding: command tuples (R123) -/

theorem test_decode_link_codes :
    decode (.port { op := 0x00#8, addr := 1#32, data := 2#32 }) = .ok (.linkInit 1#32 2#32)
    ∧ decode (.direct { op := 0x01#8 }) = .ok .clockPulse
    ∧ decode (.direct { op := 0x02#8, data := 0xA5#32, len := 8#32 }) = .ok (.writeBits 0xA5#32 8#6)
    ∧ decode (.direct { op := 0x03#8, len := 3#32 }) = .ok (.readBits 3#6)
    ∧ decode (.direct { op := 0x04#8, flags := 1#8 }) = .ok (.turnaround true)
    ∧ decode (.direct { op := 0x05#8 }) = .ok .lineReset
    ∧ decode (.direct { op := 0x06#8 }) = .ok .jtagToSwdSequence
    ∧ decode (.direct { op := 0x07#8 }) = .ok .dormantWakeSequence
    ∧ decode (.direct { op := 0x08#8, data := 0x12345678#32 }) = .ok (.parity32 0x12345678#32) := by decide

theorem test_decode_session_codes :
    decode (.port { op := 0x10#8 }) = .ok .connect ∧ decode (.port { op := 0x11#8 }) = .ok .disconnect
    ∧ decode (.port { op := 0x12#8 }) = .ok .isConnected ∧ decode (.port { op := 0x13#8 }) = .ok .resetTarget := by
  decide

theorem test_decode_transfer_codes :
    decode (.direct { op := 0x20#8, addr := 0x4#32, data := 9#32, flags := 3#8 })
      = .ok (.rawTransfer 0x4#4 true true 9#32)
    ∧ decode (.direct { op := 0x21#8, addr := 0xFC#32 }) = .ok (.dpRead 0xC#4)
    ∧ decode (.direct { op := 0x22#8, addr := 0x8#32, data := 0x01000000#32 }) = .ok (.dpWrite 0x8#4 0x01000000#32)
    ∧ decode (.direct { op := 0x23#8, addr := 0xC#32 }) = .ok (.apRead 0xC#4)
    ∧ decode (.direct { op := 0x24#8, addr := 0x4#32, data := 7#32 }) = .ok (.apWrite 0x4#4 7#32) := by decide

theorem test_decode_memory_codes :
    decode (.direct { op := 0x30#8 }) = .ok .powerUp ∧ decode (.direct { op := 0x31#8 }) = .ok .memApInit
    ∧ decode (.port { op := 0x32#8, addr := 0x4001E400#32 }) = .ok (.readWord 0x4001E400#32)
    ∧ decode (.port { op := 0x33#8, addr := 0x4001E504#32, data := 1#32 }) = .ok (.writeWord 0x4001E504#32 1#32) := by
  decide

theorem test_decode_flash_codes :
    decode (.direct { op := 0x40#8, len := 10#32 }) = .ok (.waitControllerReady 10#32)
    ∧ decode (.direct { op := 0x41#8, data := 1#32 }) = .ok (.setControllerMode .write)
    ∧ decode (.port { op := 0x42#8, addr := 0x1234#32 }) = .ok (.erasePage 0x1234#32)
    ∧ decode (.port { op := 0x43#8, addr := 0x2000#32, data := 5#32 }) = .ok (.flashWriteWord 0x2000#32 5#32)
    ∧ decode (.port { op := 0x44#8, addr := 0x1002#32, len := 3#32 }) = .ok (.writeBuffer 0x1002#32 3#32)
    ∧ decode (.port { op := 0x45#8 }) = .ok .eraseAll
    ∧ decode (.port { op := 0x46#8, addr := 0xFFE#32, len := 4#32, flags := 1#8 })
      = .ok (.updateFirmware 0xFFE#32 4#32 true) := by decide

theorem test_decode_mass_codes :
    decode (.direct { op := 0x50#8 }) = .ok .findControlAccessPort ∧ decode (.port { op := 0x51#8 }) = .ok .massErase := by
  decide

theorem test_decode_refuses_commands :
    decode (.port { op := 0x01#8 }) = .error (.notAccepted 0x01#8)
    ∧ decode (.port { op := 0xFF#8 }) = .error (.notAccepted 0xFF#8)
    ∧ decode (.direct { op := 0x09#8 }) = .error (.noSuchOperation 0x09#8)
    ∧ decode (.direct { op := 0x02#8, len := 33#32 }) = .error (.countOutOfRange 33#32)
    ∧ decode (.direct { op := 0x41#8, data := 3#32 }) = .error (.modeOutOfRange 3#32) := by decide

/-- Table words: a request byte, a command code, a frame of 47 bits in 48, a sequence. -/
theorem test_decode_table_words :
    decodeTableWord 8 0xA5 = some .reqDpRead0 ∧ decodeTableWord 8 0x10 = some .connect
    ∧ decodeTableWord 3 0b100 = some .ackFault ∧ decodeTableWord 64 (2 ^ 60 - 1) = some .seqLineReset
    ∧ decodeTableWord 48 (0xA5 + 2 ^ 9 + 2 ^ 45) = some (.frameReadOk false 0#2 0#32 false) := by decide +kernel

theorem test_encode_roundtrip :
    decode (encode (.frameWriteOk true 1#2 0xDEADBEEF#32)) = .ok (.frameWriteOk true 1#2 0xDEADBEEF#32)
    ∧ decode (encode (.reqApWrite4 0x12345678#32)) = .ok (.reqApWrite4 0x12345678#32)
    ∧ decode (encode .seqDormantWake) = .ok .seqDormantWake
    ∧ decode (encode (.writeBits 5#32 32#6)) = .ok (.writeBits 5#32 32#6) := by decide +kernel

/-! ### One step -/

/-- The state behind an instruction; the state itself where the machine stops. -/
def after (i : Instr) (s : State) : State :=
  match exec i s with
  | .next t => t
  | .fault _ => s
  | .refused _ => s

/-- Reset with the target's next bits. -/
def shown (line : List Bool) : State :=
  { State.reset with inputs := { State.reset.inputs with line := line.map some } }

/-- A two-attempt configuration, to keep a test short. -/
def twice : Params := { defaultParams with engine := { defaultEngine with maxAttempts := 2 } }

/-- The status on the response port. -/
def status (s : State) : Nat := s.ports.rspStatus.toNat

/-- V40.1: parity of 1, 0, all ones, 0x80000000, and R147's example. -/
theorem test_parity32 :
    Machine.parity32 1#32 = true ∧ Machine.parity32 0#32 = false ∧ Machine.parity32 0xFFFFFFFF#32 = false
      ∧ Machine.parity32 0x80000000#32 = true ∧ Machine.parity32 0x12345678#32 = true
      ∧ (after (.parity32 0x12345678#32) State.reset).ports.rspData = 1#32 := by decide +kernel

/-- R140: after a pulse the clock is low, and one event was added. -/
theorem test_clockPulse :
    (after .clockPulse State.reset).pins.swclk = false ∧ (after .clockPulse State.reset).trace.length = 1 := by
  decide +kernel

/-- R141's example. -/
theorem test_writeBits :
    (after (.writeBits 0xA5#32 8#6) State.reset).trace
      = [.w true, .w false, .w true, .w false, .w false, .w true, .w false, .w true] := by decide +kernel

/-- R142's example, from Driven: the turnaround first. -/
theorem test_readBits :
    (after (.readBits 3#6) (shown [true, false, false])).trace = [.t false, .r true, .r false, .r false]
      ∧ (after (.readBits 3#6) (shown [true, false, false])).ports.rspData = 1#32 := by decide +kernel

/-- R143's example. -/
theorem test_turnaround :
    (after (.turnaround false) State.reset).trace = [.t false]
      ∧ (after (.turnaround false) State.reset).pins.swdioOe = false
      ∧ (after (.turnaround false) State.reset).pins.swdioOut = true
      ∧ (after (.turnaround false) State.reset).session.driveState = .released := by decide +kernel

/-- R144: a line reset from released has 61 high cycles, the first of them the turnaround. -/
theorem test_lineReset_released :
    (after .lineReset (after (.turnaround false) State.reset)).trace
      = .t false :: .t true :: (List.replicate 60 (.w true) ++ [.w false]) := by decide +kernel

/-- V40.5, V40.6: 77 and 209 pulses. -/
theorem test_sequence_lengths :
    pulses (after .jtagToSwdSequence State.reset).trace = 77 ∧ pulses (after .seqLineReset State.reset).trace = 61
      ∧ pulses (after .seqDormantWake State.reset).trace = 209 := by decide +kernel

/-- R198's example: the identification code after one 47-pulse frame. -/
theorem test_dpRead :
    status (after (.dpRead 0x0#4) (shown (bits "100" ++ lsbBits 0x2BA01477#32 32 ++ [false]))) = 0
      ∧ (after (.dpRead 0x0#4) (shown (bits "100" ++ lsbBits 0x2BA01477#32 32 ++ [false]))).ports.rspData
        = 0x2BA01477#32
      ∧ pulses (after (.dpRead 0x0#4) (shown (bits "100" ++ lsbBits 0x2BA01477#32 32 ++ [false]))).trace = 47 := by
  decide +kernel

/-- R199's example: the write frame's bits. -/
theorem test_dpWrite :
    (after (.dpWrite 0x8#4 0x01000000#32) (shown (bits "100"))).trace
      = wEvents (bits "10001101") ++ [.t false] ++ rEvents (bits "100") ++ [.t true]
        ++ wEvents (bits "00000000000000000000000010000000") ++ [.w true, .w false] := by decide +kernel

/-- S1, V42.7 with two attempts: a flipped parity bit every time is `E_PARITY`; each attempt is followed by the abort write. -/
theorem test_dpRead_parity :
    status (after (.dpRead 0x0#4)
      { shown (bits "100" ++ lsbBits 1#32 32 ++ [false] ++ bits "100" ++ bits "100" ++ lsbBits 1#32 32 ++ [false]
          ++ bits "100") with cfg := twice }) = 3
    ∧ pulses (after (.dpRead 0x0#4)
      { shown (bits "100" ++ lsbBits 1#32 32 ++ [false] ++ bits "100" ++ bits "100" ++ lsbBits 1#32 32 ++ [false]
          ++ bits "100") with cfg := twice }).trace = 4 * 47 := by decide +kernel

/-- S2 with two attempts: always WAIT is `E_WAIT_EXHAUSTED`, a delay behind each attempt. -/
theorem test_apWrite_wait :
    status (after (.apWrite 0x4#4 7#32) { shown (bits "010010") with cfg := twice }) = 1
    ∧ (after (.apWrite 0x4#4 7#32) { shown (bits "010010") with cfg := twice }).trace.length = 2 * 47 := by
  decide +kernel

/-- R307: a line that reads all ones is a reserved acknowledgement; exhausted: `E_PROTOCOL`, no recovery action. -/
theorem test_apRead_protocol :
    status (after (.apRead 0xC#4) { shown (bits "111111") with cfg := twice }) = 4
    ∧ (after (.apRead 0xC#4) { shown (bits "111111") with cfg := twice }).trace.length = 2 * 46 := by decide +kernel

/-- R190: a FAULT acknowledgement gives a 46-pulse frame and the status FAULT. -/
theorem test_rawTransfer_fault :
    (after (.rawTransfer 0x4#4 true false 5#32) (shown (bits "001"))).ports.xferStatus = .fault
      ∧ pulses (after (.rawTransfer 0x4#4 true false 5#32) (shown (bits "001"))).trace = 46 := by decide +kernel

/-- R102: the rows of the request bytes and of the frames put the same frame on the wire. -/
theorem test_frame_row :
    (after (.frameNotOk true true 3#2 7#3) State.reset).trace = (after .reqApReadC (shown (bits "111"))).trace
      ∧ (after (.frameReadOk false 0#2 3#32 true) State.reset).ports.xferStatus = .parity := by decide +kernel

/-- R192: a reserved acknowledgement is passed on unmodified. -/
theorem test_ack_row :
    (after .ackReserved110 State.reset).ports.xferStatus = .other 6#3
      ∧ (after .ackReserved110 State.reset).linkRegs.ack = 6#3 := by decide +kernel

/-- R173: Disconnected answers false and touches no wire. -/
theorem test_isConnected_down :
    (after .isConnected State.reset).ports.rspData = 0#32 ∧ (after .isConnected State.reset).trace = [] := by
  decide +kernel

/-- R172's example. -/
theorem test_disconnect :
    (after .disconnect State.reset).trace = List.replicate 60 (.w true) ++ [.w false] := by decide +kernel

/-- The precondition rows of V43.8 and V44: code, and no event. -/
theorem test_preconditions :
    status (after (.readWord 0x2002#32) State.reset) = 6 ∧ status (after (.writeWord 1#32 0#32) State.reset) = 6
      ∧ status (after (.flashWriteWord 0x2002#32 0#32) State.reset) = 6
      ∧ status (after (.erasePage 0x80000#32) State.reset) = 7
      ∧ status (after (.updateFirmware 0x7FFFF#32 2#32 true) State.reset) = 7
      ∧ status (after (.writeBuffer 0xFFFFFFFF#32 2#32) State.reset) = 7
      ∧ (after (.erasePage 0x80000#32) State.reset).trace = [] := by decide +kernel

theorem test_empty_span :
    status (after (.writeBuffer 0xFFFFFFFF#32 0#32) State.reset) = 0
      ∧ status (after (.updateFirmware 0xFFFFFFFF#32 0#32 true) State.reset) = 0 := by decide +kernel

/-- V70.1: a valid configuration is taken, one with two pins the same is not (R340). -/
theorem test_linkInit :
    status (after (.linkInit 0#32 0#32) State.reset) = 0
      ∧ status (after (.linkInit 0#32 0#32)
          { State.reset with
            inputs :=
              { State.reset.inputs with config := { defaultParams with link := { defaultLink with pinSwdio := 0 } } } })
        = 8 := by decide +kernel

/-- R174 without a pin: `E_UNSUPPORTED`. -/
theorem test_resetTarget_no_pin :
    status (after .resetTarget
      { State.reset with cfg := { defaultParams with link := { defaultLink with hasNreset := false } } }) = 9 := by
  decide +kernel

/-- R117's values. -/
theorem test_selectWord :
    selectWord 1#8 0xFC#8 = 0x010000F0#32 ∧ selectWord 0#8 0x00#8 = 0#32 ∧ selectWord 1#8 0x0C#8 = 0x01000000#32 := by
  decide

/-- R118, R245's worked example: the span's two words and their addresses (S5). -/
theorem test_spanWords :
    spanWords 0x1002#32 3#32 = 2
      ∧ spanWord 0x1002#32 3#32 0xFFFFFFFF#32 (Memory.ofBytes [0xAA#8, 0xBB#8, 0xCC#8]) 0 = 0xBBAAFFFF#32
      ∧ spanWord 0x1002#32 3#32 0xFFFFFFFF#32 (Memory.ofBytes [0xAA#8, 0xBB#8, 0xCC#8]) 1 = 0xFFFFFFCC#32
      ∧ spanAddr 0x1002#32 1 = 0x1004#32 := by decide +kernel

/-- The state behind a step; the state itself where the machine stops. -/
def afterStep (s : State) : State :=
  match step s with
  | .next t => t
  | .fault _ => s
  | .refused _ => s

/-- Reset with one call of the host pending. -/
def called (r : Request) : State :=
  { State.reset with
    inputs :=
      { State.reset.inputs with stream := [{ request := r, buffer := [], callback := false, config := defaultParams }] } }

/-- R119 through a step: the port refuses an internal code with `E_UNSUPPORTED` and no event. -/
theorem test_step_refuses_internal :
    status (afterStep (called (.port { op := 0x20#8 }))) = 9 ∧ (afterStep (called (.port { op := 0x20#8 }))).trace = []
      ∧ (afterStep (called (.port { op := 0x20#8 }))).inputs.stream = [] := by decide +kernel

/-- A step of `withFetchWord` runs the table word: `disconnect` from reset. -/
theorem test_step_withFetchWord :
    (afterStep (State.reset.withFetchWord 8 0x11)).trace = List.replicate 60 (.w true) ++ [.w false]
      ∧ (afterStep (State.reset.withFetchWord 8 0x11)).session.busy = false := by decide +kernel

/-- R127's example, and a result of P2 in `95_test_vectors.md`. -/
theorem test_text :
    commandText (Memory.ofBytes [0xAA#8, 0xBB#8, 0xCC#8]) (.writeBuffer 0x1002#32 3#32)
      = some "writeBuffer 0x1002 [0xAA, 0xBB, 0xCC]"
      ∧ resultText (.ok none) = "Ok" ∧ resultText (.ok (some 1#32)) = "Ok(0x00000001)" := by decide +kernel

/-- R128: the pseudo-operations that are two names or two steps. -/
theorem test_pseudo :
    Pseudo.expand defaultParams .reconnect = [.disconnect, .connect]
      ∧ Pseudo.expand defaultParams .clearStickyErrors = [.dpWrite 0x0#4 0x0000001E#32]
      ∧ Pseudo.expand defaultParams (.selectAp 1#8 0xFC#8) = [.dpWrite 0x8#4 0x010000F0#32] := by decide

/-! ### Every statement with hypotheses has a case that meets them (the statement's name is in the theorem's) -/

/-- Reset under `cfg`, the target about to answer the script `acts`, and nobody driving after it. -/
def told (cfg : Params) (acts : List Act) : State :=
  { State.reset with
    cfg := cfg
    inputs := { State.reset.inputs with line := (actAnswers cfg acts).map some ++ [none] } }

theorem told_answers (cfg : Params) (acts : List Act) : Answers acts [none] (told cfg acts) := rfl
theorem told_parked (cfg : Params) (acts : List Act) : Parked (told cfg acts) := ⟨⟨rfl, rfl, rfl⟩, rfl⟩

/-- Some parked state under the default configuration, its buffer empty, in which the target answers `acts`. -/
def Playable (acts : List Act) : Prop :=
  ∃ s, s.cfg = defaultParams ∧ s.inputs.buffer = State.reset.inputs.buffer ∧ Parked s ∧ Answers acts [none] s

theorem playable (acts : List Act) : Playable acts :=
  ⟨told defaultParams acts, rfl, rfl, told_parked _ _, told_answers _ _⟩

/-- Whether an instruction answers a next state; then `after` is that state. -/
def answers (i : Instr) (s : State) : Bool :=
  match exec i s with
  | .next _ => true
  | .fault _ => false
  | .refused _ => false

theorem exec_after {i : Instr} {s : State} (h : answers i s = true) : exec i s = .next (after i s) := by
  unfold answers at h
  unfold after
  split at h <;> simp_all

/-- The same of a step. -/
def steps (s : State) : Bool :=
  match step s with
  | .next _ => true
  | .fault _ => false
  | .refused _ => false

theorem step_after {s : State} (h : steps s = true) : step s = .next (afterStep s) := by
  unfold steps at h
  unfold afterStep
  split at h <;> simp_all

/-- A property of every element of a written-out list, by running through it. -/
theorem all_of {α : Type} {P : α → Prop} [DecidablePred P] (l : List α) (h : (l.all fun x => decide (P x)) = true) :
    ∀ x ∈ l, P x := by simpa using h

theorem reset_quiet : Quiet State.reset := ⟨rfl, rfl, rfl⟩
theorem default_valid : validConfig defaultParams = true := by decide +kernel
theorem default_aligned : NvmcAligned defaultParams := by unfold NvmcAligned; decide +kernel
theorem default_acks : AckCodesDistinct defaultParams := by unfold AckCodesDistinct; decide +kernel

/-- Nine failed attempts of four kinds. -/
def nine : List Attempt :=
  [.wait, .fault 1#3, .parity 5#32 1#3, .reserved 7#3, .fault 2#3, .parity 0#32 4#3, .wait, .wait, .reserved 0#3]

/-- The same without a parity failure, for writes. -/
def nineW : List Attempt := [.wait, .fault 1#3, .reserved 7#3, .fault 2#3, .wait, .wait, .reserved 0#3, .wait, .wait]

theorem nine_possible : ∀ f ∈ nine, f.possible defaultParams true := by
  simp [nine, Attempt.possible, defaultParams, defaultEngine]

theorem nineW_possible (r : Bool) : ∀ f ∈ nineW, f.possible defaultParams r := by
  simp [nineW, Attempt.possible, defaultParams, defaultEngine]

/-- A read's and a write's whole budget of attempts, all failed. -/
def ten : List Attempt := nine ++ [.parity 3#32 1#3]
def tenW : List Attempt := nineW ++ [.reserved 7#3]

theorem ten_exhausted : Exhausted defaultParams true ten :=
  ⟨default_acks, rfl, by simp [ten, nine, Attempt.possible, defaultParams, defaultEngine]⟩
theorem tenW_exhausted (r : Bool) : Exhausted defaultParams r tenW :=
  ⟨default_acks, rfl, by simp [tenW, nineW, Attempt.possible, defaultParams, defaultEngine]⟩

/-- A ready and a busy poll, each behind stale data. -/
def rdy : Poll := .reads (.saw 7#32 1#32)
def bsy : Poll := .reads (.saw 7#32 0xFFFFFFFE#32)

/-- The three ways a poll of a memory word fails: the address write, the posted read, the read buffer. -/
def lostPolls : List Poll := [.lostWrite tenW, .reads (.lostPost ten), .reads (.lostBuffer 1#32 ten)]

theorem lostPolls_possible : ∀ p ∈ lostPolls, p.possible defaultParams := by
  simp [lostPolls, Poll.possible, ApPoll.possible, ten_exhausted, tenW_exhausted]

/-- Polls that settle on the last poll the budget of 11 allows, a lone ready read and three failed ones among them. -/
def lateReady : List Poll := rdy :: (lostPolls ++ List.replicate 5 bsy ++ [rdy, rdy])

/-- A budget of 11 polls, three of them failed, the last of them ready alone. -/
def loneReady : List Poll := lostPolls ++ List.replicate 7 bsy ++ [rdy]

/-- A budget of polls none of which reads ready, the last of them failed. -/
def neverReady (n : Nat) : List Poll := List.replicate n bsy ++ [.lostWrite tenW]

theorem late_settles : Settles defaultParams 10 lateReady := by
  refine ⟨by decide +kernel, ?_⟩
  simp [lateReady, lostPolls, rdy, bsy, Poll.possible, ApPoll.possible, ten_exhausted, tenW_exhausted]
theorem soon_possible : ∀ p ∈ [rdy, rdy], p.possible defaultParams := by simp [rdy, Poll.possible, ApPoll.possible]
theorem soon_settles : Settles defaultParams 10 [rdy, rdy] := ⟨by decide +kernel, soon_possible⟩
theorem soon_settles_page : Settles defaultParams 400 [rdy, rdy] := ⟨by decide +kernel, soon_possible⟩
theorem lone_never : NeverSettles defaultParams 10 loneReady := by
  refine ⟨by decide +kernel, ?_⟩
  simp [loneReady, lostPolls, rdy, bsy, Poll.possible, ApPoll.possible, ten_exhausted, tenW_exhausted]

/-- A page erase answered well under the default configuration. -/
def goodErase : EraseTalk :=
  { before := lateReady, into := (0#32, 2#32), after := [rdy, rdy], samples := List.replicate 4 (3#32, 0xFFFFFFFF#32),
    back := (0#32, 0xFFFFFFF0#32) }

theorem goodErase_erases : goodErase.erases defaultParams :=
  ⟨late_settles, by unfold ShowsMode; rfl, soon_settles_page, rfl, all_of _ (by decide)⟩
theorem goodErase_good : goodErase.good defaultParams := ⟨goodErase_erases, by unfold ShowsMode; rfl⟩

/-- A buffered write answered well. -/
def goodWrite : WriteTalk := { into := (0#32, 1#32), lead := (5#32, 0x12345678#32), ready := [rdy, rdy], back := (0#32, 0#32) }

theorem goodWrite_writes : goodWrite.writes defaultParams := ⟨by unfold ShowsMode; decide +kernel, soon_settles⟩
theorem goodWrite_good : goodWrite.good defaultParams := ⟨goodWrite_writes, by unfold ShowsMode; decide +kernel⟩

/-- R245: `IDX` moves behind a whole word's write only: a word whose write is turned away at every attempt leaves it. -/
theorem test_writeBuffer_idx :
    (after (.writeBuffer 0x1000#32 4#32)
      (told twice (modeActs twice .write (0#32, 1#32) ++ List.replicate 2 (.turnedAway 0x4#4 true false 7#3)
        ++ List.replicate 2 (.turnedAway 0x4#4 true false 7#3)))).seqRegs.idx = 0#32
    ∧ status (after (.writeBuffer 0x1000#32 4#32)
      (told twice (modeActs twice .write (0#32, 1#32) ++ List.replicate 2 (.turnedAway 0x4#4 true false 7#3)
        ++ List.replicate 2 (.turnedAway 0x4#4 true false 7#3)))) = 4 := by decide +kernel

/-- `Settles` wants the run complete at the end and not before; a poll too many does not settle. -/
theorem test_settles_refuses : ¬ Settles defaultParams 10 [rdy, rdy, rdy] ∧ ¬ Settles defaultParams 10 [rdy] :=
  ⟨fun h => absurd h.1 (by decide +kernel), fun h => absurd h.1 (by decide +kernel)⟩

theorem witness_StepRunsDecodedInstruction :
    (called (.port { op := 0x11#8 })).inputs.stream
        = [{ request := .port { op := 0x11#8 }, buffer := [], callback := false, config := defaultParams }]
      ∧ (called (.port { op := 0x11#8 })).session.busy = false ∧ decode (.port { op := 0x11#8 }) = .ok .disconnect := by
  decide +kernel

theorem witness_PortRefusesOtherCodes :
    (called (.port { op := 0x52#8 })).session.busy = false ∧ externalOp 0x52#8 = false ∧ externalOp 0x01#8 = false := by
  decide +kernel

/-- A step with a call, one without, and one that finds the block busy. -/
theorem witness_EveryStepTakesOneCall :
    step (called (.direct { op := 0x01#8 })) = .next (afterStep (called (.direct { op := 0x01#8 })))
      ∧ (called (.direct { op := 0x01#8 })).inputs.stream ≠ [] ∧ State.reset.inputs.stream = []
      ∧ step State.reset = .next (afterStep State.reset)
      ∧ ((called (.direct { op := 0x01#8 })).mapSession fun x => { x with busy := true }).session.busy = true :=
  ⟨step_after rfl, by decide, rfl, step_after rfl, rfl⟩

theorem witness_DecodeEncode :
    (Instr.writeBits 0xFFFFFFFF#32 32#6).wf = true ∧ (Instr.frameNotOk true false 3#2 7#3).wf = true := by decide

theorem witness_DecodedIsWellFormed : decode (.wire [true, true, true]) = .ok .ackReserved111 := by decide

theorem witness_SixteenRequestBytes :
    transferOf (.reqApWriteC 0x80000000#32) = some (0xC#4, true, false, 0x80000000#32)
      ∧ transferOf .reqDpRead0 = some (0x0#4, false, true, 0#32) := by decide

theorem witness_AddressAssembly : (0x4#4).getLsbD 2 = (0x5#4).getLsbD 2 ∧ (0x4#4).getLsbD 3 = (0x5#4).getLsbD 3 := by
  decide +kernel

/-- No bit, all bits, from a driven and from a released line. -/
theorem witness_WriteBitsEffect :
    (0#6).toNat ≤ 32 ∧ (32#6).toNat ≤ 32 ∧ Quiet State.reset ∧ Quiet (after (.turnaround false) State.reset)
      ∧ (Command.mk 0x02#8 0#32 0xA5#32 32#32 0#8).len.toNat ≤ 32 := by
  unfold Quiet; decide +kernel

/-- The target drives the first bit of the line, nobody the second. -/
theorem witness_ReadBitsEffect :
    (0#6).toNat ≤ 32 ∧ (32#6).toNat ≤ 32 ∧ Quiet (told defaultParams [.write 0#4 false 0#32])
      ∧ (told defaultParams [.write 0#4 false 0#32]).inputs.line[0]? = some (some true)
      ∧ (Command.mk 0x03#8 0#32 0#32 32#32 0#8).len.toNat ≤ 32 :=
  ⟨by decide, by decide, (told_parked _ _).1, rfl, by decide⟩

theorem witness_TurnaroundEffect : (Command.mk 0x04#8 0#32 0#32 0#32 1#8).op = 0x04#8 := rfl

theorem witness_FixedSequencesEffect :
    Quiet State.reset ∧ sequenceOf defaultParams .jtagToSwdSequence = some (selectBits defaultParams) := ⟨reset_quiet, rfl⟩

theorem witness_FixedSequenceBits : Parked State.reset ∧ State.reset.cfg.wire = defaultWire := ⟨⟨reset_quiet, rfl⟩, rfl⟩

theorem witness_ParityIsXorOfAllBits : (Command.mk 0x08#8 0#32 3#32 0#32 0#8).op = 0x08#8 := rfl

/-- An answer with the right parity bit and one with the wrong one. -/
theorem witness_ReadParityDecides :
    transferOf .reqDpRead0 = some (0x0#4, false, true, 0#32)
      ∧ LineShows (okReadAnswer defaultParams 1#32 true) [none] (told defaultParams [.read 0x0#4 false 1#32])
      ∧ true = Machine.parity32 1#32
      ∧ LineShows (okReadAnswer defaultParams 1#32 false) [none] (told defaultParams [.garbled 0x0#4 false 1#32])
      ∧ false ≠ Machine.parity32 1#32 :=
  ⟨rfl, by unfold LineShows; decide +kernel, by decide, by unfold LineShows; decide +kernel, by decide⟩

theorem witness_OkWriteFrame :
    transferOf (.reqDpWrite8 1#32) = some (0x8#4, false, false, 1#32)
      ∧ LineShows (lsbBits defaultParams.engine.ackOk 3) [none] (told defaultParams [.write 0x8#4 false 1#32]) :=
  ⟨rfl, by unfold LineShows; decide +kernel⟩

theorem witness_NotOkFrame :
    transferOf (.rawTransfer 0x4#4 true true 0#32) = some (0x4#4, true, true, 0#32) ∧ 7#3 ≠ defaultParams.engine.ackOk
      ∧ LineShows (lsbBits 7#3 3) [none] (told defaultParams [.turnedAway 0x4#4 true true 7#3]) :=
  ⟨rfl, by decide, by unfold LineShows; decide +kernel⟩

/-- A line nobody drives. -/
theorem witness_FrameLengthFollowsAck :
    transferOf .reqDpRead0 = some (0x0#4, false, true, 0#32)
      ∧ exec .reqDpRead0 State.reset = .next (after .reqDpRead0 State.reset) := ⟨rfl, exec_after rfl⟩

theorem witness_FrameRows : 0#3 ≠ defaultParams.engine.ackOk ∧ 7#3 ≠ defaultParams.engine.ackOk := by decide

theorem witness_AcknowledgementRows : ackOf .ackReserved000 = some 0b000#3 ∧ Quiet State.reset := ⟨rfl, reset_quiet⟩

theorem witness_AccessSucceedsAtAnyAttempt :
    nine.length < defaultParams.engine.maxAttempts ∧ AckCodesDistinct defaultParams
      ∧ (∀ f ∈ nine, f.possible defaultParams true)
      ∧ (Playable (attemptActs defaultParams 0x0#4 false true nine ++ [.read 0x0#4 false 1#32]))
      ∧ nineW.length < defaultParams.engine.maxAttempts ∧ (∀ f ∈ nineW, f.possible defaultParams false)
      ∧ (Playable (attemptActs defaultParams 0x8#4 false false nineW ++ [.write 0x8#4 false 1#32]))
      ∧ Playable (attemptActs defaultParams 0x4#4 true false nineW ++ [.write 0x4#4 true 1#32]) :=
  ⟨by decide, default_acks, nine_possible, playable _, by decide,
    nineW_possible _, playable _, playable _⟩

theorem witness_ApReadIsPosted :
    AckCodesDistinct defaultParams ∧ nine.length < defaultParams.engine.maxAttempts
      ∧ (∀ f ∈ nine, f.possible defaultParams true)
      ∧ Playable (attemptActs defaultParams 0xC#4 true true nine ++ [.read 0xC#4 true 9#32]
            ++ attemptActs defaultParams defaultParams.engine.dpRdbuff false true nine ++ [.read defaultParams.engine.dpRdbuff false 1#32]) :=
  ⟨default_acks, by decide, nine_possible, playable _⟩

/-- Each loop out of attempts: a read, a posted read, the read buffer behind a posted read at its tenth attempt, the writes. -/
theorem witness_ExhaustedAccessNamesLastFailure :
    ten.length = defaultParams.engine.maxAttempts ∧ ten.getLast? = some (Attempt.parity 3#32 1#3)
      ∧ (∀ f ∈ ten, f.possible defaultParams true)
      ∧ (Playable (attemptActs defaultParams 0x0#4 false true ten)) ∧ (Playable (attemptActs defaultParams 0xC#4 true true ten))
      ∧ nine.length < defaultParams.engine.maxAttempts ∧ (∀ g ∈ nine, g.possible defaultParams true)
      ∧ (Playable (attemptActs defaultParams 0xC#4 true true nine ++ [.read 0xC#4 true 9#32]
            ++ attemptActs defaultParams defaultParams.engine.dpRdbuff false true ten))
      ∧ tenW.length = defaultParams.engine.maxAttempts ∧ tenW.getLast? = some (Attempt.reserved 7#3)
      ∧ (∀ f ∈ tenW, f.possible defaultParams false)
      ∧ (Playable (attemptActs defaultParams 0x8#4 false false tenW))
      ∧ Playable (attemptActs defaultParams 0x4#4 true false tenW) :=
  ⟨rfl, rfl, ten_exhausted.2.2, playable _, playable _, by decide, nine_possible, playable _, rfl, rfl,
    (tenW_exhausted _).2.2, playable _, playable _⟩

theorem witness_EveryAccessIsBounded :
    Parked State.reset ∧ exec (.dpRead 0#4) State.reset = .next (after (.dpRead 0#4) State.reset)
      ∧ exec (.apRead 0#4) State.reset = .next (after (.apRead 0#4) State.reset) := ⟨⟨reset_quiet, rfl⟩, exec_after rfl, exec_after rfl⟩

/-- Seven polls that show one acknowledge bit or the other, never both, or fail, and the eighth both. -/
def powersLate : List DpPoll := List.replicate 5 (.saw 0x80000000#32) ++ [.lost ten, .saw 0x20000000#32, .saw 0xF0000000#32]

/-- The whole budget of polls, the last one failed. -/
def powersNever : List DpPoll := List.replicate 7 (.saw 0x80000000#32) ++ [.lost ten]

theorem powersLate_powers : PowersUp defaultParams powersLate := by
  refine ⟨⟨List.replicate 5 (.saw 0x80000000#32) ++ [.lost ten, .saw 0x20000000#32], .saw 0xF0000000#32, rfl,
    ⟨_, rfl, by decide⟩, ?_⟩, by decide, ?_⟩
  · simp [powered, DpPoll.value, defaultParams, defaultPower]
  · simp [powersLate, DpPoll.possible, ten_exhausted]

theorem powersNever_never : NeverPowers defaultParams powersNever := by
  refine ⟨rfl, ?_, ?_⟩
  · simp [powersNever, powered, DpPoll.value, defaultParams, defaultPower]
  · simp [powersNever, DpPoll.possible, ten_exhausted]

theorem witness_PowerUpPollsBothBits :
    PowersUp defaultParams powersLate ∧ (Playable (powerActs defaultParams powersLate))
      ∧ NeverPowers defaultParams powersNever ∧ Playable (powerActs defaultParams powersNever) :=
  ⟨powersLate_powers, playable _, powersNever_never, playable _⟩

theorem witness_MemoryAccessCompletes :
    1 ≤ defaultParams.engine.maxAttempts ∧ wordAligned 0xFFFFFFFC#32 = true
      ∧ (Playable (memApActs defaultParams))
      ∧ (Playable (memReadActs defaultParams 0xFFFFFFFC#32 5#32 6#32))
      ∧ Playable (memWriteActs defaultParams 0xFFFFFFFC#32 6#32) :=
  ⟨by decide, by decide, playable _,
    playable _, playable _⟩

/-- Ten reserved acknowledgements, and a dead value; ten attempts that fail in four ways are `attemptActs` of `ten`. -/
def silent : List Act := List.replicate 10 (.turnedAway 0x0#4 false true 7#3)
def deadRead : List Act := [.read 0x0#4 false 0xFFFFFFFF#32]

theorem silent_fails : IdFails defaultParams silent :=
  .inr (.inl ⟨7#3, by simp [Attempt.possible, defaultParams, defaultEngine], by decide, rfl⟩)
theorem deadRead_fails : IdFails defaultParams deadRead := .inl ⟨0xFFFFFFFF#32, by decide, rfl⟩
theorem ten_fails : IdFails defaultParams (attemptActs defaultParams 0x0#4 false true ten) :=
  .inr (.inr ⟨ten, ten_exhausted, rfl⟩)

/-- The two ways to the code 0x2BA01477. -/
def byWake : List Act := [.send (wakeBits defaultParams), .read 0x0#4 false 0x2BA01477#32]
def byFallback : List Act :=
  .send (wakeBits defaultParams) :: silent
    ++ [.send (resetBits defaultParams), .send (selectBits defaultParams), .read 0x0#4 false 0x2BA01477#32]

theorem byWake_identifies : Identifies defaultParams 0x2BA01477#32 byWake := ⟨by decide, .inl rfl⟩
theorem byFallback_identifies : Identifies defaultParams 0x2BA01477#32 byFallback :=
  ⟨by decide, .inr ⟨silent, silent_fails, rfl⟩⟩

theorem witness_ConnectCompletes :
    Identifies defaultParams 0x2BA01477#32 byWake ∧ Identifies defaultParams 0x2BA01477#32 byFallback
      ∧ PowersUp defaultParams powersLate
      ∧ (Playable (byWake ++ attachActs defaultParams powersLate))
      ∧ Playable (byFallback ++ attachActs defaultParams powersLate) :=
  ⟨byWake_identifies, byFallback_identifies, powersLate_powers, playable _,
    playable _⟩

theorem witness_ConnectFailsWithoutTarget :
    IdFails defaultParams silent ∧ IdFails defaultParams deadRead
      ∧ Playable (.send (wakeBits defaultParams) :: silent ++ [.send (resetBits defaultParams), .send (selectBits defaultParams)] ++ deadRead) := ⟨silent_fails, deadRead_fails, playable _⟩

theorem witness_ConnectKeepsPowerUpError :
    Identifies defaultParams 0x2BA01477#32 byWake ∧ NeverPowers defaultParams powersNever
      ∧ Playable (byWake ++ powerActs defaultParams powersNever) :=
  ⟨byWake_identifies, powersNever_never, playable _⟩

theorem witness_DisconnectEffect : Quiet State.reset ∧ (Command.mk 0x11#8 0#32 0#32 0#32 0#8).op = 0x11#8 :=
  ⟨reset_quiet, rfl⟩

/-- A Connected session whose target answers `acts`. -/
def joined (acts : List Act) : State :=
  (told defaultParams acts).mapSession fun x =>
    { x with connectionState := .connected, idcodeReg := 0x2BA01477#32 }

theorem joined_parked (acts : List Act) : Parked (joined acts) := ⟨⟨rfl, rfl, rfl⟩, rfl⟩
theorem joined_answers (acts : List Act) : Answers acts [none] (joined acts) := rfl

theorem witness_IsConnectedEffect :
    State.reset.session.connectionState = .disconnected
      ∧ (joined [.read 0x0#4 false 1#32]).session.connectionState = .connected ∧ Parked (joined [.read 0x0#4 false 1#32])
      ∧ deadIdcode 1#32 = false
      ∧ Answers [.read (joined [.read 0x0#4 false 1#32]).cfg.engine.dpIdcode false 1#32] [none]
          (joined [.read 0x0#4 false 1#32])
      ∧ (joined silent).session.connectionState = .connected ∧ Parked (joined silent)
      ∧ IdFails (joined silent).cfg silent ∧ Answers silent [none] (joined silent) :=
  ⟨rfl, rfl, joined_parked _, by decide, joined_answers _, rfl, joined_parked _, silent_fails, joined_answers _⟩

theorem witness_ResetTargetCompletes :
    defaultParams.link.hasNreset = true ∧ Identifies defaultParams 0x2BA01477#32 byWake
      ∧ PowersUp defaultParams powersLate
      ∧ Playable ([.pin true, .pause .resetAssert, .pin false, .pause .resetRelease] ++ byWake
            ++ attachActs defaultParams powersLate) :=
  ⟨rfl, byWake_identifies, powersLate_powers, playable _⟩

/-- The wait settles on the budget's last poll; and the budget's last poll, ready alone, does not settle it. -/
theorem witness_ReadyWaitOutcomes :
    validConfig defaultParams = true ∧ NvmcAligned defaultParams ∧ Settles defaultParams (10#32).toNat lateReady
      ∧ (Playable (readyPolls defaultParams lateReady))
      ∧ NeverSettles defaultParams (10#32).toNat loneReady
      ∧ Playable (readyPolls defaultParams loneReady) :=
  ⟨default_valid, default_aligned, late_settles, playable _, lone_never,
    playable _⟩

/-- A read-back that shows the mode behind other bits, and one that does not show it. -/
theorem witness_ModeSwitchReadsBack :
    ShowsMode defaultParams .write (0#32, 0xFFFFFFFD#32) ∧ ¬ ShowsMode defaultParams .write (1#32, 0#32)
      ∧ (Playable (modeActs defaultParams .write (0#32, 0xFFFFFFFD#32)))
      ∧ Playable (modeActs defaultParams .write (1#32, 0#32)) := by
  refine ⟨?_, ?_, playable _, playable _⟩ <;>
    (unfold ShowsMode; decide +kernel)

/-- The first and the last byte of the flash. -/
theorem witness_ErasePageCompletes :
    goodErase.good defaultParams ∧ defaultParams.flash.flashBase ≤ (0#32).toNat
      ∧ (0x7FFFF#32).toNat - defaultParams.flash.flashBase < defaultParams.flash.flashSize
      ∧ (Playable (eraseActs defaultParams (alignDown 0#32 0x1000) goodErase))
      ∧ Playable (eraseActs defaultParams (alignDown 0x7FFFF#32 0x1000) goodErase) :=
  ⟨goodErase_good, by decide, by decide, playable _,
    playable _⟩

/-- The last sample reads a cleared bit; and the first does. -/
def badErase (good : Nat) : EraseTalk :=
  { goodErase with samples := List.replicate good (3#32, 0xFFFFFFFF#32) ++ [(3#32, 0x7FFFFFFF#32)] }

theorem witness_EraseSampleFails :
    Settles defaultParams 10 (badErase 3).before ∧ ShowsMode defaultParams .erase (badErase 3).into
      ∧ Settles defaultParams 400 (badErase 3).after
      ∧ (badErase 3).samples.length ≤ defaultParams.flash.eraseVerifyOffsets.length
      ∧ (∀ q ∈ List.replicate 3 ((3 : Word), (0xFFFFFFFF : Word)), q.2 = defaultParams.flash.erasedWord)
      ∧ (0x7FFFFFFF#32) ≠ defaultParams.flash.erasedWord
      ∧ (Playable (eraseActs defaultParams (alignDown 0x7FFFF#32 0x1000) (badErase 3)))
      ∧ Playable (eraseActs defaultParams (alignDown 0x7FFFF#32 0x1000) (badErase 0)) :=
  ⟨late_settles, by unfold ShowsMode; decide +kernel, soon_settles_page, by decide, all_of _ (by decide), by decide,
    playable _, playable _⟩

/-- The polls of a wait of 400 ms, none of them ready; and of one of 1000 ms. -/
theorem never_settles (n t : Nat) (h : n + 1 = polls defaultParams t)
    (hn : (neverReady n).all (fun p => !readsReady defaultParams p) = true) :
    NeverSettles defaultParams t (neverReady n) := by
  refine ⟨⟨by simp [neverReady, h], fun j _ => ?_⟩, ?_⟩
  · have hr : readyRunOf defaultParams ((neverReady n).take j) = 0 := by
      unfold readyRunOf
      rw [List.length_eq_zero_iff, List.takeWhile_eq_nil_iff]
      intro hl
      have hm := List.mem_of_mem_take (List.mem_reverse.1 (List.getElem_mem hl))
      simpa using (List.all_eq_true.1 hn _ hm)
    rw [hr]
    decide
  · intro p hp
    rcases List.mem_append.1 hp with hp | hp
    · rw [List.eq_of_mem_replicate hp]; trivial
    · rw [List.mem_singleton.1 hp]; exact tenW_exhausted _

theorem neverReady_all (n : Nat) : (neverReady n).all (fun p => !readsReady defaultParams p) = true := by
  have h : readsReady defaultParams bsy = false := by decide +kernel
  have h' : readsReady defaultParams (.lostWrite tenW) = false := rfl
  simp [neverReady, List.all_replicate, h, h']

/-- The page range's ends, the last word of the address space, a span shorter than the interval of waits and one as long. -/
theorem witness_TimeoutStillRestoresMode :
    NeverSettles defaultParams defaultParams.flash.readyTimeoutMs loneReady
      ∧ passesChecks defaultParams (.erasePage 0x7FFFF#32) ∧ passesChecks defaultParams .eraseAll
      ∧ (Playable (readyPolls defaultParams loneReady ++ modeActs defaultParams .readOnly (0#32, 3#32)))
      ∧ Settles defaultParams defaultParams.flash.readyTimeoutMs lateReady ∧ ShowsMode defaultParams .erase (0#32, 2#32)
      ∧ NeverSettles defaultParams defaultParams.flash.erasePageTimeoutMs (neverReady 400)
      ∧ NeverSettles defaultParams defaultParams.flash.eraseAllTimeoutMs (neverReady 1000)
      ∧ NeverSettles defaultParams defaultParams.flash.writeWordTimeoutMs loneReady
      ∧ ShowsMode defaultParams .write (0#32, 1#32)
      ∧ passesChecks defaultParams (.flashWriteWord 0xFFFFFFFC#32 5#32)
      ∧ passesChecks defaultParams (.writeBuffer 0xFFFFFFFF#32 1#32)
      ∧ spanWords 0xFFFFFFFF#32 1#32 < defaultParams.flash.writePollIntervalWords
      ∧ passesChecks defaultParams (.writeBuffer 0x1000#32 16#32)
      ∧ spanWords 0x1000#32 16#32 = defaultParams.flash.writePollIntervalWords
      ∧ ∀ ps, Playable (firstWaitActs defaultParams 0x1000#32 16#32 State.reset.inputs.buffer goodWrite ps
            ++ modeActs defaultParams .readOnly (0#32, 3#32)) :=
  ⟨lone_never, ⟨by decide, by decide⟩, trivial, playable _, late_settles, by unfold ShowsMode; decide +kernel,
    never_settles _ _ (by decide +kernel) (neverReady_all _), never_settles _ _ (by decide +kernel) (neverReady_all _), lone_never,
    by unfold ShowsMode; decide +kernel, (by decide : wordAligned 0xFFFFFFFC#32 = true), ⟨by decide, by decide⟩,
    by decide +kernel, ⟨by decide, by decide⟩, by decide +kernel, fun _ => playable _⟩

theorem witness_FlashWriteWordCompletes :
    wordAligned 0xFFFFFFFC#32 = true ∧ ShowsMode defaultParams .write (0#32, 1#32)
      ∧ Settles defaultParams defaultParams.flash.writeWordTimeoutMs [rdy, rdy]
      ∧ ShowsMode defaultParams .readOnly (0#32, 0#32)
      ∧ Playable (modeActs defaultParams .write (0#32, 1#32) ++ memWriteActs defaultParams 0xFFFFFFFC#32 5#32 ++ readyPolls defaultParams [rdy, rdy]
            ++ modeActs defaultParams .readOnly (0#32, 0#32)) :=
  ⟨by decide, by unfold ShowsMode; decide +kernel, soon_settles, by unfold ShowsMode; decide +kernel,
    playable _⟩

theorem witness_EraseAllCompletes :
    Settles defaultParams defaultParams.flash.readyTimeoutMs lateReady ∧ ShowsMode defaultParams .erase (0#32, 2#32)
      ∧ Settles defaultParams defaultParams.flash.eraseAllTimeoutMs [rdy, rdy]
      ∧ ShowsMode defaultParams .readOnly (0#32, 0#32)
      ∧ Playable (readyPolls defaultParams lateReady ++ modeActs defaultParams .erase (0#32, 2#32)
            ++ memWriteActs defaultParams defaultParams.flash.nvmcEraseAll 1#32 ++ [.pause .eraseAllSettle] ++ readyPolls defaultParams [rdy, rdy]
            ++ modeActs defaultParams .readOnly (0#32, 0#32)) :=
  ⟨late_settles, by unfold ShowsMode; decide +kernel, ⟨by decide +kernel, soon_possible⟩, by unfold ShowsMode; decide +kernel,
    playable _⟩

/-- One byte at the top of the address space, and three bytes across a word's end. -/
theorem witness_WriteBufferWritesTheSpan :
    goodWrite.good defaultParams ∧ 1#32 ≠ 0#32 ∧ (0xFFFFFFFF#32).toNat + (1#32).toNat ≤ 2 ^ 32
      ∧ (Playable (bufferActs defaultParams 0xFFFFFFFF#32 1#32 State.reset.inputs.buffer goodWrite))
      ∧ Playable (bufferActs defaultParams 0x1002#32 3#32 State.reset.inputs.buffer goodWrite) :=
  ⟨goodWrite_good, by decide, by decide, playable _,
    playable _⟩

/-- Two bytes that end the flash: one page, the empty buffer reads as zeros. -/
def endWords : List (Word × Word) := [(1#32, 0x0000FFFF#32)]

theorem witness_UpdateFirmwareCompletes :
    (2#32 : Word) ≠ 0#32 ∧ defaultParams.flash.flashBase ≤ (0x7FFFE#32).toNat
      ∧ (0x7FFFE#32).toNat - defaultParams.flash.flashBase + (2#32).toNat ≤ defaultParams.flash.flashSize
      ∧ [goodErase].length = pageCount defaultParams 0x7FFFE#32 2#32 ∧ (∀ e ∈ [goodErase], e.good defaultParams)
      ∧ goodWrite.good defaultParams ∧ endWords.length = spanWords 0x7FFFE#32 2#32
      ∧ (∀ j p, endWords[j]? = some p → VerifyAgrees 0x7FFFE#32 2#32 State.reset.inputs.buffer j p.2)
      ∧ Playable (pagesActs defaultParams 0x7FFFE#32 (pageCount defaultParams 0x7FFFE#32 2#32) 0 [goodErase]
            ++ bufferActs defaultParams 0x7FFFE#32 2#32 State.reset.inputs.buffer goodWrite
            ++ (if true then verifyActs defaultParams 0x7FFFE#32 2#32 0 0 endWords else [])) := by
  refine ⟨by decide, by decide, by decide, by decide, ?_, goodWrite_good, by decide, ?_,
    playable _⟩
  · intro e he
    obtain rfl := List.mem_singleton.1 he
    exact goodErase_good
  · intro j p h
    rcases j with - | j
    · obtain rfl : (1#32, 0x0000FFFF#32) = p := by simpa [endWords] using h
      unfold VerifyAgrees
      decide +kernel
    · simp [endWords] at h

theorem witness_UpdateFirmwareFindsMismatch :
    ([] : List (Word × Word)).length < spanWords 0x7FFFE#32 2#32
      ∧ ¬ VerifyAgrees 0x7FFFE#32 2#32 State.reset.inputs.buffer 0 0x00010000#32
      ∧ Playable (pagesActs defaultParams 0x7FFFE#32 (pageCount defaultParams 0x7FFFE#32 2#32) 0 [goodErase]
            ++ bufferActs defaultParams 0x7FFFE#32 2#32 State.reset.inputs.buffer goodWrite ++ verifyActs defaultParams 0x7FFFE#32 2#32 0 0 []
            ++ memReadActs defaultParams (spanAddr 0x7FFFE#32 0) 3#32 0x00010000#32) := by
  refine ⟨by decide, ?_, playable _⟩
  unfold VerifyAgrees
  decide +kernel

/-- A match at the last index the scan looks at, behind three indices that do not match, two of them because a transaction
failed; and a scan without a match. -/
def scanLast : List Poll :=
  [.reads (.saw 0#32 0#32), .lostWrite tenW, .reads (.lostBuffer 1#32 ten), .reads (.saw 0#32 0x02880000#32)]
def scanNone : List Poll := .reads (.lostPost ten) :: List.replicate 3 (.reads (.saw 0#32 0x02880001#32))

theorem scanLast_finds : ScanFinds defaultParams scanLast 3#8 := by
  refine ⟨.inl ⟨[.reads (.saw 0#32 0#32), .lostWrite tenW, .reads (.lostBuffer 1#32 ten)],
    .reads (.saw 0#32 0x02880000#32), rfl, ⟨_, rfl, by decide⟩, ?_, by decide, by decide⟩, ?_⟩
  · simp [idrMatches, Poll.value, ApPoll.value, defaultParams, defaultCtrlAp]
  · simp [scanLast, Poll.possible, ApPoll.possible, ten_exhausted, tenW_exhausted]
theorem scanNone_finds : ScanFinds defaultParams scanNone 1#8 := by
  refine ⟨.inr ⟨by decide, ?_, by decide⟩, ?_⟩
  · simp [scanNone, idrMatches, Poll.value, ApPoll.value, defaultParams, defaultCtrlAp]
  · simp [scanNone, Poll.possible, ApPoll.possible, ten_exhausted]

theorem witness_ScanFindsControlPort :
    ScanFinds defaultParams scanLast 3#8 ∧ ScanFinds defaultParams scanNone 1#8
      ∧ (Playable (scanActs defaultParams 0 scanLast))
      ∧ Playable (scanActs defaultParams 0 scanNone) :=
  ⟨scanLast_finds, scanNone_finds, playable _,
    playable _⟩

/-- `n` polls that do not read idle, the first of them failed. -/
def busyPolls (n : Nat) : List ApPoll := .lostBuffer 1#32 ten :: List.replicate n (.saw 0#32 1#32)

theorem busyPolls_stay (n : Nat) : StaysBusy defaultParams (busyPolls n) := by
  intro p hp
  rcases List.mem_cons.1 hp with rfl | hp
  · exact ⟨by simp [ApPoll.value], ten_exhausted⟩
  · rw [List.eq_of_mem_replicate hp]
    exact ⟨by decide, trivial⟩

/-- A mass erase idle on the budget's last poll, 301 of them; `protection` is what the protection status reads. -/
def massTalk (protection : Word) : MassTalk :=
  { scan := scanLast, busy := busyPolls 299, idleStale := 1#32, id := 0x2BA01477#32,
    power := powersLate, samples := List.replicate 3 (0#32, 0xFFFFFFFF#32), status := (0#32, protection) }

theorem massTalk_reaches (p : Word) : (massTalk p).reaches defaultParams 3#8 := by
  refine ⟨scanLast_finds, busyPolls_stay _, ?_, ?_, powersLate_powers, rfl⟩
  · show (busyPolls 299).length < 301
    simp only [busyPolls, List.length_cons, List.length_replicate]
    decide
  · show deadIdcode 0x2BA01477#32 = false
    decide

theorem witness_MassEraseOutcomes :
    (massTalk 1#32).reaches defaultParams 3#8 ∧ (massTalk 1#32).verified defaultParams
      ∧ (Playable (massActs defaultParams 3#8 (massTalk 1#32)))
      ∧ (massTalk 0#32).reaches defaultParams 3#8 ∧ ¬ (massTalk 0#32).verified defaultParams
      ∧ (Playable (massActs defaultParams 3#8 (massTalk 0#32)))
      ∧ ScanFinds defaultParams scanNone 1#8 ∧ StaysBusy defaultParams (busyPolls 300)
      ∧ (busyPolls 300).length = mpolls defaultParams defaultParams.ctrlAp.massEraseTimeoutMs
      ∧ Playable (massStartActs defaultParams 1#8 scanNone
            ++ statusActs defaultParams (mpolls defaultParams defaultParams.ctrlAp.massEraseTimeoutMs) false 0 (busyPolls 300)
            ++ massLeaveActs defaultParams) := by
  refine ⟨massTalk_reaches _, ?_, playable _, massTalk_reaches _, ?_, playable _, scanNone_finds, busyPolls_stay _, ?_,
    playable _⟩
  · exact ⟨all_of _ (by decide), by decide⟩
  · exact fun h => h.2 (by decide)
  · simp only [busyPolls, List.length_cons, List.length_replicate]
    decide +kernel

theorem witness_LinkInitCompletes : ConfigConstraints State.reset.inputs.config := by
  unfold ConfigConstraints
  refine ⟨by decide, by decide, by decide, by decide, by decide, by decide, by decide, by decide, by decide, by decide,
    by decide, ⟨12, rfl⟩, by decide, ?_, ?_, by decide, all_of _ (by decide), by decide,
    ⟨0xFFC#32, by decide, by decide⟩, by decide, all_of _ (by decide), by decide, by decide, by decide⟩
  · exact ⟨0, rfl⟩
  · exact ⟨128, rfl⟩

/-- Each precondition at its boundary: the last word's second byte, the first address behind the flash, one byte too many at the
top of the address space and at the flash's end, two pins the same, no reset pin. -/
theorem witness_PreconditionErrorsTouchNothing :
    wordAligned 0xFFFFFFFD#32 = false
      ∧ defaultParams.flash.flashBase + defaultParams.flash.flashSize ≤ (0x80000#32).toNat
      ∧ 2 ^ 32 < (0xFFFFFFFF#32).toNat + (2#32).toNat
      ∧ defaultParams.flash.flashBase + defaultParams.flash.flashSize < (0x7FFFF#32).toNat + (2#32).toNat
      ∧ ¬ ConfigConstraints { defaultParams with link := { defaultLink with pinSwdio := 0 } }
      ∧ ({ defaultLink with hasNreset := false }).hasNreset = false :=
  ⟨by decide, by decide, by decide, by decide, fun h => h.1 rfl, rfl⟩

/-- An address below a flash that does not begin at zero. -/
theorem witness_PreconditionErrorsTouchNothing_below :
    (0xFFF#32).toNat < ({ defaultFlash with flashBase := 0x1000 }).flashBase := by decide

theorem witness_ProgressUpcall :
    State.reset.inputs.callback = false ∧ (State.reset.mapInputs fun x => { x with callback := true }).inputs.callback = true :=
  ⟨rfl, rfl⟩

theorem witness_OnlyLinkInitReconfigures :
    loadsConfig .disconnect = false ∧ exec .disconnect State.reset = .next (after .disconnect State.reset) :=
  ⟨rfl, exec_after rfl⟩

theorem witness_SessionMovesOnlyWhereStated :
    movesSession (.dpRead 0#4) = false ∧ writesCtrlApIndex (.dpRead 0#4) = false ∧ writesNreset (.dpRead 0#4) = false
      ∧ exec (.dpRead 0#4) State.reset = .next (after (.dpRead 0#4) State.reset) :=
  ⟨rfl, rfl, rfl, exec_after rfl⟩

theorem witness_WorkingRegistersAndPortsFrame :
    usesSeqRegs (.dpRead 0#4) = false ∧ readsBuffer (.dpRead 0#4) = false ∧ reportsProgress (.dpRead 0#4) = false
      ∧ exec (.dpRead 0#4) State.reset = .next (after (.dpRead 0#4) State.reset) :=
  ⟨rfl, rfl, rfl, exec_after rfl⟩

/-- From reset, and a transfer from a released line. -/
theorem witness_LineIsParkedAfterwards :
    mayRelease .powerUp = false ∧ Parked State.reset ∧ exec .powerUp State.reset = .next (after .powerUp State.reset)
      ∧ (transferOf .reqDpRead0).isSome = true ∧ Quiet (after (.turnaround false) State.reset)
      ∧ exec .reqDpRead0 (after (.turnaround false) State.reset)
          = .next (after .reqDpRead0 (after (.turnaround false) State.reset))
      ∧ isFrameRow (.frameNotOk true true 3#2 7#3) = true
      ∧ exec (.frameNotOk true true 3#2 7#3) (after (.turnaround false) State.reset)
          = .next (after (.frameNotOk true true 3#2 7#3) (after (.turnaround false) State.reset)) :=
  ⟨rfl, ⟨reset_quiet, rfl⟩, exec_after rfl, rfl, by unfold Quiet; decide +kernel, exec_after rfl, rfl, exec_after rfl⟩

theorem called_consistent (r : Request) : Consistent (called r) := by
  refine ⟨⟨rfl, rfl, rfl⟩, ⟨rfl, ?_⟩, rfl, default_valid, by intro h; cases h⟩
  intro c hc
  obtain rfl := List.mem_singleton.1 hc
  rfl

theorem witness_EveryStepKeepsConsistent :
    Consistent (called (.port { op := 0x11#8 }))
      ∧ step (called (.port { op := 0x11#8 })) = .next (afterStep (called (.port { op := 0x11#8 }))) :=
  ⟨called_consistent _, step_after rfl⟩

/-- A target in step. -/
def inStep : Rt0 := { Rt0.start defaultParams 0x2BA01477#32 0#32 with phase := .ready [] }

/-- The identification code of a target in step: the block reads it, and the target did answer so. -/
theorem witness_ReferenceTargetAnswersDpRead :
    inStep.par = defaultParams ∧ inStep.phase = .ready [] ∧ inStep.acks = [] ∧ inStep.ones = 0
      ∧ Parked (told defaultParams [.read 0x0#4 false 0x2BA01477#32])
      ∧ exec (.dpRead 0x0#4) (told defaultParams [.read 0x0#4 false 0x2BA01477#32])
          = .next (after (.dpRead 0x0#4) (told defaultParams [.read 0x0#4 false 0x2BA01477#32]))
      ∧ AnsweredByRt0 inStep (told defaultParams [.read 0x0#4 false 0x2BA01477#32])
          (after (.dpRead 0x0#4) (told defaultParams [.read 0x0#4 false 0x2BA01477#32])) := by
  refine ⟨rfl, rfl, rfl, rfl, told_parked _ _, exec_after rfl, ?_⟩
  refine ⟨(after (.dpRead 0x0#4) (told defaultParams [.read 0x0#4 false 0x2BA01477#32])).trace, inStep,
    (List.nil_append _).symm, ?_⟩
  decide +kernel

/-- RT0's memory is bytes, little-endian (R66, R94): a word written at 0x20001000 shows its upper half at 0x20001002. -/
theorem test_rt0_bytes :
    (inStep.memWrite 0x20001000#32 0xDDCCBBAA#32).memRead 0x20001002#32 = 0x0000DDCC#32
      ∧ (inStep.memWrite 0x20001000#32 0xDDCCBBAA#32).memRead 0x20000FFF#32 = 0xCCBBAA00#32 := by decide +kernel

/-- RT0's memory-access port stands at index 0 and its control port at index 1, wherever the block looks for them (R94). -/
theorem test_rt0_ports :
    let t := { inStep with par := { defaultParams with power := { defaultPower with memApIndex := 1#8 } }, csw := 5#32 }
    t.apValue 0x0#4 = 5#32 ∧ ({ t with select := 0x010000F0#32 }).apValue 0xC#4 = 0x02880000#32 := by decide +kernel

/-- The four operations past their checks, at the checks' boundaries; a target nobody drives answers none of them well. -/
theorem witness_ModeIsRestoredOnEveryExitPath :
    Parked State.reset ∧ passesChecks defaultParams (.erasePage 0#32) ∧ passesChecks defaultParams (.erasePage 0x7FFFF#32)
      ∧ passesChecks defaultParams (.flashWriteWord 0xFFFFFFFC#32 0#32)
      ∧ passesChecks defaultParams (.writeBuffer 0xFFFFFFFF#32 1#32) ∧ passesChecks defaultParams .eraseAll
      ∧ ¬ ShowsMode defaultParams .write (0#32, 2#32) ∧ ¬ ShowsMode defaultParams .erase (0#32, 1#32)
      ∧ ¬ ShowsMode defaultParams .readOnly (0#32, 2#32)
      ∧ (∀ back, Playable (modeActs defaultParams .write (0#32, 2#32) ++ modeActs defaultParams .readOnly back))
      ∧ Settles defaultParams defaultParams.flash.readyTimeoutMs lateReady
      ∧ (∀ back, Playable (readyPolls defaultParams lateReady ++ modeActs defaultParams .erase (0#32, 1#32)
            ++ modeActs defaultParams .readOnly back))
      ∧ ({ goodErase with back := (0#32, 2#32) }).erases defaultParams
      ∧ (Playable (eraseActs defaultParams (alignDown 0x7FFFF#32 0x1000) { goodErase with back := (0#32, 2#32) }))
      ∧ ShowsMode defaultParams .erase (0#32, 2#32)
      ∧ Settles defaultParams defaultParams.flash.eraseAllTimeoutMs [rdy, rdy]
      ∧ ShowsMode defaultParams .write (0#32, 1#32)
      ∧ Settles defaultParams defaultParams.flash.writeWordTimeoutMs [rdy, rdy]
      ∧ ({ goodWrite with back := (0#32, 2#32) }).writes defaultParams
      ∧ Playable (bufferActs defaultParams 0xFFFFFFFF#32 1#32 State.reset.inputs.buffer { goodWrite with back := (0#32, 2#32) }) :=
  ⟨⟨reset_quiet, rfl⟩, ⟨by decide, by decide⟩, ⟨by decide, by decide⟩, (by decide : wordAligned 0xFFFFFFFC#32 = true),
    ⟨by decide, by decide⟩, trivial, by unfold ShowsMode; decide +kernel, by unfold ShowsMode; decide +kernel,
    by unfold ShowsMode; decide +kernel, fun _ => playable _, late_settles, fun _ => playable _, goodErase_erases,
    playable _, by unfold ShowsMode; decide +kernel, ⟨by decide +kernel, soon_possible⟩,
    by unfold ShowsMode; decide +kernel, soon_settles, goodWrite_writes, playable _⟩

end Sys2Proof.Tests
end

/-! # The state family (`10_state.md`): what one instruction and one step change, and what they keep -/

namespace Sys2Proof.Machine

/-! ### Relations between the state before and the state after

One walk over the operations serves every frame claim: it is made for any relation that composes and that the operation's
elementary parts respect. -/

/-- `R` is respected by what the Transaction Engine and the fixed sequences are made of (R141, R190, R197). -/
structure EngineStable (R : State → State → Prop) : Prop where
  refl : ∀ s, R s s
  trans : ∀ {s t u}, R s t → R t u → R s u
  transfer : ∀ a p r d s, R s (rawTransfer a p r d s).st
  send : ∀ bs s, R s (sendBits bs s)
  link : ∀ f s, R s (s.mapLinkRegs f)
  delay : ∀ p s, R s (delay p s)

/-- `R` is respected by `POLLS_LEFT` too, the one sequencer register that `powerUp` uses (R36, R220). -/
structure PollStable (R : State → State → Prop) : Prop extends EngineStable R where
  polls : ∀ n s, R s (setPollsLeft n s)

/-- `R` is respected by every working register of the sequencers (R36). -/
structure FlashStable (R : State → State → Prop) : Prop extends PollStable R where
  seq : ∀ f s, R s (s.mapSeqRegs f)

/-- `R` is respected by the session's flag and code (R30, R32). -/
structure SessionStable (R : State → State → Prop) : Prop extends EngineStable R where
  connection : ∀ c s, R s (s.setConnection c)
  idcode : ∀ v s, R s (setIdcode v s)

/-- `R` is respected by what `connect` is made of (R170). -/
structure ConnectStable (R : State → State → Prop) : Prop extends SessionStable R, PollStable R where
  reinit : ∀ s, R s (sessionReinit s)

/-- An operation that began at `s` ended with `r`: `R` relates the two states, and its error, if it has one, is not
`E_NO_TARGET`, which never leaves `connect` and `isConnected` (R300). -/
structure Ends {α : Type} (R : State → State → Prop) (s : State) (r : Res α) : Prop where
  rel : R s r.2
  code : r.1 ≠ .error .eNoTarget

/-- `R` is respected by what `massErase` is made of behind its scan (R281). -/
structure BypassStable (R : State → State → Prop) : Prop extends PollStable R where
  noted : ∀ c s, c ≠ .eNoTarget → R s (setFirstErr (some c) s)
  report : ∀ d t l s, R s (progress d t l s)
  connect : ∀ s, Ends R s (connect s)
  disconnect : ∀ s, R s (disconnect s)

/-- The state function `f` has the same value before and after. -/
def Same {α : Type} (f : State → α) (s t : State) : Prop := f t = f s

/-- Every part of the engine is `Wired`, so a relation that `Wired` implies is respected by all of them. -/
theorem EngineStable.of_wired {R : State → State → Prop} (refl : ∀ s, R s s)
    (trans : ∀ {s t u}, R s t → R t u → R s u) (h : ∀ s t, Wired s t → R s t) : EngineStable R where
  refl := refl
  trans := trans
  transfer a p r d s := h _ _ (wired_rawTransfer a p r d s)
  send bs s := h _ _ (wired_sendBits bs s)
  link f s := h _ _ (wired_mapLinkRegs f s)
  delay p s := h _ _ (ran_delay p s).wired

theorem EngineStable.same {α : Type} {f : State → α} (h : ∀ s t, Wired s t → f t = f s) : EngineStable (Same f) :=
  .of_wired (fun _ => rfl) (fun h k => Eq.trans k h) h

theorem FlashStable.same {α : Type} {f : State → α} (h : ∀ s t, Wired s t → f t = f s)
    (hs : ∀ g s, f (s.mapSeqRegs g) = f s) : FlashStable (Same f) where
  toEngineStable := .same h
  polls _ _ := hs _ _
  seq := hs

theorem ConnectStable.same {α : Type} {f : State → α} (h : ∀ s t, Wired s t → f t = f s)
    (hs : ∀ g s, f (s.mapSeqRegs g) = f s) (hc : ∀ c s, f (s.setConnection c) = f s)
    (hi : ∀ v s, f (setIdcode v s) = f s) (hr : ∀ s, f (sessionReinit s) = f s) : ConnectStable (Same f) where
  toEngineStable := .same h
  connection := hc
  idcode := hi
  polls _ _ := hs _ _
  reinit := hr

/-! ### The Transaction Engine -/

theorem FailKind.error_ne_eNoTarget (k : FailKind) : k.error ≠ .eNoTarget := by
  cases k <;> decide

section Walk

variable {R : State → State → Prop} {α β : Type}

theorem Ends.after {s t : State} {r : Res α} (hR : EngineStable R) (h : R s t) (k : Ends R t r) : Ends R s r :=
  ⟨hR.trans h k.rel, k.code⟩

theorem Ends.mono {R' : State → State → Prop} {s : State} {r : Res α} (h : Ends R s r) (hRR : ∀ t, R s t → R' s t) :
    Ends R' s r :=
  ⟨hRR _ h.rel, h.code⟩

theorem Ends.tryThen_of_rel {s : State} {r : Res α} {k : α → State → Res β} (h : Ends R s r) (hR : EngineStable R)
    (hk : ∀ a u, R s u → Ends R u (k a u)) : Ends R s (Machine.tryThen r k) := by
  obtain ⟨v, u⟩ := r
  cases v with
  | ok a => exact (hk a u h.rel).after hR h.rel
  | error c => exact ⟨h.rel, fun e => h.code (by simpa [Machine.tryThen] using e)⟩

theorem Ends.tryThen {s : State} {r : Res α} {k : α → State → Res β} (h : Ends R s r) (hR : EngineStable R)
    (hk : ∀ a u, Ends R u (k a u)) : Ends R s (Machine.tryThen r k) :=
  h.tryThen_of_rel hR fun a u _ => hk a u

theorem rel_ite {s x y : State} {c : Prop} [Decidable c] (hx : R s x) (hy : R s y) : R s (if c then x else y) := by
  split <;> assumption

theorem Ends.ite {s : State} {c : Prop} [Decidable c] {x y : Res α} (hx : Ends R s x) (hy : Ends R s y) :
    Ends R s (if c then x else y) := by
  split <;> assumption

theorem Ends.map {s : State} {r : Res α} (f : α → β) (h : Ends R s r) : Ends R s (r.1.map f, r.2) := by
  obtain ⟨v, u⟩ := r
  cases v with
  | ok a => exact ⟨h.rel, by simp [Except.map]⟩
  | error c => exact ⟨h.rel, fun e => h.code (by simpa [Except.map] using e)⟩

theorem EngineStable.ends_ok (hR : EngineStable R) (a : α) (s : State) : Ends R s (.ok a, s) :=
  ⟨hR.refl s, nofun⟩

theorem EngineStable.ends_error (hR : EngineStable R) {c : ErrCode} (hc : c ≠ .eNoTarget) (s : State) :
    Ends R s ((.error c, s) : Res α) :=
  ⟨hR.refl s, fun e => hc (by simpa using e)⟩

section Engine

variable (hR : EngineStable R)
include hR

theorem EngineStable.ends_retryLoop (a : Addr4) (p r : Bool) (d : Word) (n k : Nat) (s : State) :
    Ends R s (retryLoop a p r d n k s) := by
  induction n generalizing k s with
  | zero => exact hR.ends_error (FailKind.error_ne_eNoTarget _) s
  | succ n ih =>
    have h := hR.trans (hR.transfer a p r d s) (hR.link (fun l => { l with attempt := BitVec.ofNat 4 (k + 1) }) _)
    unfold retryLoop
    dsimp only
    split
    · exact (hR.ends_ok _ _).after hR h
    · exact (ih _ _).after hR (hR.trans h (hR.trans (hR.link _ _) (hR.delay _ _)))
    · exact (ih _ _).after hR (hR.trans h (hR.trans (hR.link _ _) (hR.transfer _ _ _ _ _)))
    · exact (ih _ _).after hR (hR.trans h (hR.trans (hR.link _ _) (hR.transfer _ _ _ _ _)))
    · exact (ih _ _).after hR (hR.trans h (hR.link _ _))

theorem EngineStable.ends_retry (a : Addr4) (p r : Bool) (d : Word) (s : State) : Ends R s (retry a p r d s) :=
  (hR.ends_retryLoop _ _ _ _ _ _ _).after hR (hR.link _ s)

theorem EngineStable.ends_dpRead (a : Addr4) (s : State) : Ends R s (dpRead a s) := hR.ends_retry _ _ _ _ s

theorem EngineStable.ends_dpWrite (a : Addr4) (d : Word) (s : State) : Ends R s (dpWrite a d s) :=
  (hR.ends_retry _ _ _ _ s).tryThen hR fun _ u => hR.ends_ok _ u

theorem EngineStable.ends_apWrite (a : Addr4) (d : Word) (s : State) : Ends R s (apWrite a d s) :=
  (hR.ends_retry _ _ _ _ s).tryThen hR fun _ u => hR.ends_ok _ u

theorem EngineStable.ends_apRead (a : Addr4) (s : State) : Ends R s (apRead a s) :=
  (hR.ends_retry _ _ _ _ s).tryThen hR fun _ u => hR.ends_dpRead _ u

theorem EngineStable.ends_selectAp (i : ApIndex) (r : Reg8) (s : State) : Ends R s (selectAp i r s) :=
  hR.ends_dpWrite _ _ s

theorem EngineStable.ends_memApInit (s : State) : Ends R s (memApInit s) :=
  (hR.ends_selectAp _ _ s).tryThen hR fun _ u => hR.ends_apWrite _ _ u

theorem EngineStable.ends_memReadWord (a : Word) (s : State) : Ends R s (memReadWord a s) :=
  .ite ((hR.ends_apWrite _ _ s).tryThen hR fun _ u => hR.ends_apRead _ u) (hR.ends_error (by decide) s)

theorem EngineStable.ends_memWriteWord (a v : Word) (s : State) : Ends R s (memWriteWord a v s) :=
  .ite ((hR.ends_apWrite _ _ s).tryThen hR fun _ u => hR.ends_apWrite _ _ u) (hR.ends_error (by decide) s)

theorem EngineStable.ends_setControllerMode (m : NvmcMode) (s : State) : Ends R s (setControllerMode m s) :=
  (hR.ends_memWriteWord _ _ s).tryThen hR fun _ u => (hR.ends_memReadWord _ u).tryThen hR fun _ w =>
    .ite (hR.ends_ok _ w) (hR.ends_error (by decide) w)

theorem EngineStable.ends_verifyAddrs (as : List Word) (b : Bool) (s : State) : Ends R s (verifyAddrs as b s) := by
  induction as generalizing b s with
  | nil => exact hR.ends_ok b s
  | cons a as ih => exact (hR.ends_memReadWord _ s).tryThen hR fun _ u => ih _ u

/-! ### Fixed sequences and the identification read -/

theorem EngineStable.rel_writeBits (v : Word) (n : Nat) (s : State) : R s (writeBits v n s) :=
  hR.trans (hR.send _ s) (hR.link _ _)

theorem EngineStable.rel_lineReset (s : State) : R s (lineReset s) := by
  unfold lineReset
  exact hR.trans (hR.send _ s) (hR.link _ _)

theorem EngineStable.rel_jtagToSwdSequence (s : State) : R s (jtagToSwdSequence s) :=
  hR.trans (hR.rel_writeBits _ _ s) (hR.rel_lineReset _)

theorem EngineStable.rel_dormantWakeSequence (s : State) : R s (dormantWakeSequence s) := by
  unfold dormantWakeSequence
  exact hR.trans (hR.send _ s) <| hR.trans (hR.rel_writeBits _ _ _) <| hR.trans (hR.rel_writeBits _ _ _) <|
    hR.trans (hR.rel_writeBits _ _ _) <| hR.trans (hR.rel_writeBits _ _ _) <| hR.trans (hR.send _ _) <|
    hR.trans (hR.rel_writeBits _ _ _) (hR.rel_lineReset _)

theorem EngineStable.rel_readIdcode (s : State) : R s (readIdcode s).2 := by
  have h := (hR.ends_dpRead s.cfg.engine.dpIdcode s).rel
  unfold readIdcode
  generalize dpRead s.cfg.engine.dpIdcode s = r at h ⊢
  obtain ⟨v, u⟩ := r
  cases v with
  | ok v => rw [tryThen_ok]; split <;> exact h
  | error c => exact h

theorem EngineStable.ends_identify (s : State) : Ends R s (identify s) := by
  unfold identify
  have h1 := hR.trans (hR.rel_dormantWakeSequence s) (hR.rel_readIdcode _)
  split
  case h_1 v s1 heq => rw [heq] at h1; exact ⟨h1, nofun⟩
  case h_2 c s1 heq =>
    rw [heq] at h1
    have h2 := hR.trans h1 <| hR.trans (hR.rel_lineReset _) <| hR.trans (hR.rel_jtagToSwdSequence _) (hR.rel_readIdcode _)
    split
    case h_1 v s2 heq2 => rw [heq2] at h2; exact ⟨h2, nofun⟩
    case h_2 c2 s2 heq2 => rw [heq2] at h2; exact ⟨h2, nofun⟩

end Engine

/-! ### Polls and the power-up -/

theorem PollStable.rel_delayIfMore (hR : PollStable R) (n : Nat) (p : DelayName) (s : State) :
    R s (delayIfMore n p s) := by
  unfold delayIfMore
  split
  · exact hR.refl s
  · exact hR.delay p s

theorem PollStable.ends_powerUpPoll (hR : PollStable R) (n : Nat) (s : State) : Ends R s (powerUpPoll n s) := by
  induction n generalizing s with
  | zero => exact hR.ends_error (by decide) s
  | succ n ih =>
    have h := (hR.ends_dpRead s.cfg.engine.dpCtrlStat s).rel
    have again : ∀ u, Ends R u (powerUpPoll n (delayIfMore n .powerupPoll (setPollsLeft n u))) := fun u =>
      (ih _).after hR.toEngineStable (hR.trans (hR.polls _ u) (hR.rel_delayIfMore _ _ _))
    unfold powerUpPoll
    split
    case h_1 v s1 heq =>
      rw [heq] at h
      exact (Ends.ite (hR.ends_ok _ s1) (again s1)).after hR.toEngineStable h
    case h_2 c s1 heq =>
      rw [heq] at h
      exact (again s1).after hR.toEngineStable h

theorem PollStable.ends_powerUp (hR : PollStable R) (s : State) : Ends R s (powerUp s) :=
  (hR.ends_dpWrite _ _ s).tryThen hR.toEngineStable fun _ u =>
    (hR.ends_dpWrite _ _ u).tryThen hR.toEngineStable fun _ w =>
      (hR.ends_powerUpPoll _ _).after hR.toEngineStable (hR.polls _ w)

/-! ### The Flash Programming Engine -/

section Flash

variable (hR : FlashStable R)
include hR

theorem FlashStable.ends_readyPoll (n run : Nat) (s : State) : Ends R s (readyPoll n run s) := by
  induction n generalizing run s with
  | zero => exact hR.ends_error (by decide) s
  | succ n ih =>
    have h := (hR.ends_memReadWord s.cfg.flash.nvmcReady s).rel
    unfold readyPoll
    dsimp only
    exact .ite ((hR.ends_ok _ _).after hR.toEngineStable (hR.trans h (hR.seq _ _)))
      ((ih _ _).after hR.toEngineStable
        (hR.trans h (hR.trans (hR.seq _ _) (hR.trans (hR.polls _ _) (hR.rel_delayIfMore _ _ _)))))

theorem FlashStable.ends_waitControllerReady (t : Nat) (s : State) : Ends R s (waitControllerReady t s) :=
  (hR.ends_readyPoll _ _ _).after hR.toEngineStable (hR.trans (hR.polls _ s) (hR.seq _ _))

theorem FlashStable.ends_finish {s : State} {r : Res Unit} (h : Ends R s r) : Ends R s (finish r) := by
  have hm := (hR.ends_setControllerMode .readOnly r.2).after hR.toEngineStable h.rel
  obtain ⟨v, u⟩ := r
  cases v with
  | ok a => exact hm
  | error c => exact ⟨hm.rel, fun e => h.code (by simpa [finish] using e)⟩

theorem FlashStable.ends_sampleErased (p : Word) (os : List Word) (s : State) : Ends R s (sampleErased p os s) := by
  induction os generalizing s with
  | nil => exact hR.ends_ok _ s
  | cons o os ih =>
    exact (hR.ends_memReadWord _ s).tryThen hR.toEngineStable fun _ u =>
      .ite (ih u) (hR.ends_error (by decide) u)

theorem FlashStable.ends_erasePage (a : Word) (s : State) : Ends R s (erasePage a s) := by
  have hE := hR.toEngineStable
  refine .ite (hR.ends_finish ?_) (hR.ends_error (by decide) s)
  exact (hR.ends_waitControllerReady _ s).tryThen hE fun _ s1 => (hR.ends_setControllerMode _ s1).tryThen hE fun _ s2 =>
    (hR.ends_memWriteWord _ _ s2).tryThen hE fun _ s3 =>
      .after hE (hR.delay _ s3) <| (hR.ends_waitControllerReady _ _).tryThen hE fun _ s4 => hR.ends_sampleErased _ _ s4

theorem FlashStable.ends_flashWriteWord (a d : Word) (s : State) : Ends R s (flashWriteWord a d s) := by
  have hE := hR.toEngineStable
  refine .ite (hR.ends_finish ?_) (hR.ends_error (by decide) s)
  exact (hR.ends_setControllerMode _ s).tryThen hE fun _ s1 => (hR.ends_memWriteWord _ _ s1).tryThen hE fun _ s2 =>
    hR.ends_waitControllerReady _ s2

theorem FlashStable.ends_eraseAll (s : State) : Ends R s (eraseAll s) := by
  have hE := hR.toEngineStable
  refine hR.ends_finish ?_
  exact (hR.ends_waitControllerReady _ s).tryThen hE fun _ s1 => (hR.ends_setControllerMode _ s1).tryThen hE fun _ s2 =>
    (hR.ends_memWriteWord _ _ s2).tryThen hE fun _ s3 => .after hE (hR.delay _ s3) (hR.ends_waitControllerReady _ _)

end Flash

/-! ### Buffered write and firmware update -/

/-- `R` is respected by what a buffered write and an update are made of (R245, R247). -/
structure BufferStable (R : State → State → Prop) : Prop extends FlashStable R where
  readBuf : ∀ i s, R s (readBuf i s).2
  report : ∀ d t l s, R s (progress d t l s)

section Buffer

variable (hR : BufferStable R)
include hR

theorem BufferStable.ends_afterWord (l : Word) (s : State) : Ends R s (afterWord l s) := by
  have hE := hR.toEngineStable
  unfold afterWord
  dsimp only
  refine .tryThen (.ite ?_ ?_) hE fun _ s1 => .ite ?_ (hR.ends_ok _ s1)
  · exact (hR.ends_waitControllerReady _ _).after hE (hR.trans (hR.seq _ s) (hR.seq _ _))
  · exact (hR.ends_ok _ _).after hE (hR.seq _ s)
  · exact (hR.ends_ok _ _).after hE (hR.trans (hR.seq _ s1) (hR.report _ _ _ _))

theorem BufferStable.rel_spliceBytes (l : Word) (n k : Nat) (s : State) : R s (spliceBytes l n k s) := by
  induction n generalizing k s with
  | zero => exact hR.refl s
  | succ n ih =>
    unfold spliceBytes
    split
    · exact hR.trans (hR.readBuf _ s) (hR.trans (hR.seq _ _) (ih _ _))
    · exact hR.refl s

theorem BufferStable.rel_loadLanes (n k : Nat) (s : State) : R s (loadLanes n k s) := by
  induction n generalizing k s with
  | zero => exact hR.refl s
  | succ n ih => exact hR.trans (hR.readBuf _ s) (hR.trans (hR.seq _ _) (ih _ _))

theorem BufferStable.ends_writeSpliced (w l d : Word) (s : State) : Ends R s (writeSpliced w l d s) :=
  (hR.ends_memWriteWord _ _ s).tryThen hR.toEngineStable fun _ s1 =>
    (hR.ends_afterWord _ _).after hR.toEngineStable (hR.seq _ s1)

theorem BufferStable.ends_leadingWord (l : Word) (s : State) : Ends R s (leadingWord l s) :=
  .ite (hR.ends_ok _ s) <| (hR.ends_memReadWord _ s).tryThen hR.toEngineStable fun _ s1 =>
    (hR.ends_writeSpliced _ _ _ _).after hR.toEngineStable (hR.trans (hR.seq _ s1) (hR.rel_spliceBytes _ _ _ _))

theorem BufferStable.ends_wholeWords (l : Word) (n : Nat) (s : State) : Ends R s (wholeWords l n s) := by
  induction n generalizing s with
  | zero => exact hR.ends_ok _ s
  | succ n ih =>
    exact .ite (((hR.ends_writeSpliced _ _ _ _).after hR.toEngineStable (hR.rel_loadLanes _ _ s)).tryThen
      hR.toEngineStable fun _ s1 => ih s1) (hR.ends_ok _ s)

theorem BufferStable.ends_trailingWord (l : Word) (s : State) : Ends R s (trailingWord l s) :=
  .ite (((hR.ends_memWriteWord _ _ _).after hR.toEngineStable
      (hR.trans (hR.seq _ s) (hR.rel_spliceBytes _ _ _ _))).tryThen hR.toEngineStable
    fun _ s1 => hR.ends_afterWord _ s1) (hR.ends_ok _ s)

theorem BufferStable.ends_closeTail (l : Word) (s : State) : Ends R s (closeTail l s) :=
  .tryThen (.ite (hR.ends_ok _ s) (hR.ends_waitControllerReady _ s)) hR.toEngineStable fun _ s1 =>
    .ite (hR.ends_ok _ s1) ((hR.ends_ok _ _).after hR.toEngineStable (hR.report _ _ _ s1))

theorem BufferStable.ends_writeBuffer (a l : Word) (s : State) : Ends R s (writeBuffer a l s) := by
  have hE := hR.toEngineStable
  refine .ite (hR.ends_ok _ s) (.ite (hR.ends_error (by decide) s) (hR.ends_finish ?_))
  exact (hR.ends_setControllerMode _ s).tryThen hE fun _ s1 =>
    .after hE (hR.seq _ s1) <| (hR.ends_leadingWord _ _).tryThen hE fun _ s2 =>
      (hR.ends_wholeWords _ _ s2).tryThen hE fun _ s3 => (hR.ends_trailingWord _ s3).tryThen hE fun _ s4 =>
        hR.ends_closeTail _ s4

theorem BufferStable.ends_erasePages (total n d : Nat) (p : Word) (s : State) :
    Ends R s (erasePages total n d p s) := by
  induction n generalizing d p s with
  | zero => exact hR.ends_ok _ s
  | succ n ih =>
    exact ((hR.ends_erasePage _ _).after hR.toEngineStable (hR.seq _ s)).tryThen hR.toEngineStable fun _ s1 =>
      (ih _ _ _).after hR.toEngineStable (hR.report _ _ _ s1)

theorem BufferStable.rel_compareLanes (st l w : Word) (c n k : Nat) (s : State) :
    R s (compareLanes st l w c n k s).2 := by
  induction n generalizing k s with
  | zero => exact hR.refl s
  | succ n ih =>
    unfold compareLanes
    dsimp only
    split
    · split
      · exact hR.trans (hR.readBuf _ s) (ih _ _)
      · exact hR.readBuf _ s
    · exact ih _ _

theorem BufferStable.ends_verifyWords (st l : Word) (n c : Nat) (s : State) : Ends R s (verifyWords st l n c s) := by
  have hE := hR.toEngineStable
  induction n generalizing c s with
  | zero => exact hR.ends_ok _ s
  | succ n ih =>
    refine (hR.ends_memReadWord _ s).tryThen hE fun w s1 => ?_
    have h := hR.rel_compareLanes st l w c 4 0 s1
    dsimp only
    split
    · refine (ih _ _).after hE (hR.trans h ?_)
      split
      · exact hR.trans (hR.seq _ _) (hR.trans (hR.seq _ _) (hR.report _ _ _ _))
      · exact hR.seq _ _
    · exact (hR.ends_error (by decide) _).after hE h

theorem BufferStable.ends_updateFirmware (st l : Word) (v : Bool) (s : State) :
    Ends R s (updateFirmware st l v s) := by
  have hE := hR.toEngineStable
  refine .ite (hR.ends_ok _ s) (.ite ?_ (hR.ends_error (by decide) s))
  exact (hR.ends_erasePages _ _ _ _ s).tryThen hE fun _ s1 => (hR.ends_writeBuffer _ _ s1).tryThen hE fun _ s2 =>
    .ite ((hR.ends_verifyWords _ _ _ _ _).after hE (hR.seq _ s2)) (hR.ends_ok _ s2)

end Buffer

/-! ### The Connection Sequencer -/

theorem SessionStable.rel_disconnect (hR : SessionStable R) (s : State) : R s (disconnect s) :=
  hR.trans (hR.rel_lineReset s) (hR.connection _ _)

theorem SessionStable.rel_isConnected (hR : SessionStable R) (s : State) : R s (isConnected s).2 := by
  have h := hR.rel_readIdcode s
  unfold isConnected
  split
  · exact hR.refl s
  · split
    case h_1 v s1 heq => rw [heq] at h; exact hR.trans h (hR.idcode _ _)
    case h_2 c s1 heq => rw [heq] at h; exact hR.trans h (hR.connection _ _)

theorem ConnectStable.ends_connect (hR : ConnectStable R) (s : State) : Ends R s (connect s) := by
  have hE := hR.toEngineStable
  exact ((hR.ends_identify _).after hE (hR.reinit s)).tryThen hE fun v s1 =>
    ((hR.toPollStable.ends_powerUp _).after hE (hR.idcode v s1)).tryThen hE fun _ s2 =>
      (hR.ends_memApInit s2).tryThen hE fun _ s3 => (hR.ends_ok _ _).after hE (hR.connection _ s3)

theorem ConnectStable.ends_resetTarget (hR : ConnectStable R) (hn : ∀ b s, R s (driveNreset b s)) (s : State) :
    Ends R s (resetTarget s) := by
  refine .ite ?_ (hR.ends_error (by decide) s)
  exact (hR.ends_connect _).after hR.toEngineStable <| hR.trans (hn _ s) <| hR.trans (hR.delay _ _) <|
    hR.trans (hn _ _) (hR.delay _ _)

/-! ### The Mass-Erase Engine -/

theorem FlashStable.rel_scanPorts (hR : FlashStable R) (hi : ∀ i s, R s (setCtrlApIndex i s)) (n k : Nat) (s : State) :
    R s (scanPorts n k s).2 := by
  induction n generalizing k s with
  | zero => exact hi _ s
  | succ n ih =>
    have h1 := hR.trans (hR.seq (fun r => { r with scan := BitVec.ofNat 9 k }) s)
      (hR.ends_selectAp (BitVec.ofNat 8 k) (s.mapSeqRegs fun r => { r with scan := BitVec.ofNat 9 k }).cfg.power.apIdr
        (s.mapSeqRegs fun r => { r with scan := BitVec.ofNat 9 k })).rel
    unfold scanPorts
    dsimp only
    split
    case h_1 c s1 heq => rw [heq] at h1; exact hR.trans h1 (ih _ _)
    case h_2 v s1 heq =>
      rw [heq] at h1
      have h2 := hR.trans h1 (hR.ends_apRead (regLow s1.cfg.power.apIdr) s1).rel
      split
      case h_1 c s2 heq2 => rw [heq2] at h2; exact hR.trans h2 (ih _ _)
      case h_2 w s2 heq2 =>
        rw [heq2] at h2
        split
        · exact hR.trans h2 (hi _ _)
        · exact hR.trans h2 (ih _ _)

theorem FlashStable.rel_findControlAccessPort (hR : FlashStable R) (hi : ∀ i s, R s (setCtrlApIndex i s)) (s : State) :
    R s (findControlAccessPort s).2 :=
  hR.rel_scanPorts hi _ _ s

section Bypass

variable (hR : BypassStable R)
include hR

theorem BypassStable.rel_note {s : State} {r : Res α} (h : Ends R s r) : R s (note r) := by
  obtain ⟨v, u⟩ := r
  cases v with
  | ok a => exact h.rel
  | error c =>
    unfold note
    dsimp only
    split
    · exact hR.trans h.rel (hR.noted c u fun e => h.code (by rw [e]))
    · exact h.rel

theorem BypassStable.rel_ifNoErr {f : State → State} (hf : ∀ u, R u (f u)) (s : State) : R s (ifNoErr f s) := by
  unfold ifNoErr
  split
  · exact hf s
  · exact hR.refl s

theorem BypassStable.rel_statusPoll (total n : Nat) (s : State) : R s (statusPoll total n s) := by
  induction n generalizing s with
  | zero => exact hR.noted _ s (by decide)
  | succ n ih =>
    have h := hR.trans (hR.ends_apRead (regLow s.cfg.ctrlAp.ctrlapEraseAllStatus) s).rel (hR.polls n _)
    unfold statusPoll
    exact rel_ite (hR.trans h (hR.report _ _ _ _))
      (hR.trans h (hR.trans (hR.report _ _ _ _) (hR.trans (hR.rel_delayIfMore _ _ _) (ih _))))

theorem BypassStable.rel_erasePhase (s : State) : R s (erasePhase s) := by
  unfold erasePhase
  refine hR.trans ?_ (hR.rel_ifNoErr (fun u => hR.trans (hR.polls _ u) (hR.rel_statusPoll _ _ _)) _)
  refine hR.trans ?_ (hR.rel_ifNoErr (fun u => hR.rel_note (hR.ends_apWrite _ _ u)) _)
  split
  · exact hR.rel_note (hR.ends_apWrite _ _ s)
  · exact hR.refl s

theorem BypassStable.rel_leavePhase (s : State) : R s (leavePhase s) :=
  hR.trans (hR.rel_note (hR.ends_apWrite _ _ s)) (hR.rel_note (hR.ends_selectAp _ _ _))

end Bypass

theorem BypassStable.and {R' : State → State → Prop} (h : BypassStable R) (k : BypassStable R') :
    BypassStable fun s t => R s t ∧ R' s t where
  refl s := ⟨h.refl s, k.refl s⟩
  trans h1 h2 := ⟨h.trans h1.1 h2.1, k.trans h1.2 h2.2⟩
  transfer a p r d s := ⟨h.transfer a p r d s, k.transfer a p r d s⟩
  send bs s := ⟨h.send bs s, k.send bs s⟩
  link f s := ⟨h.link f s, k.link f s⟩
  delay p s := ⟨h.delay p s, k.delay p s⟩
  polls n s := ⟨h.polls n s, k.polls n s⟩
  noted c s hc := ⟨h.noted c s hc, k.noted c s hc⟩
  report d t l s := ⟨h.report d t l s, k.report d t l s⟩
  connect s := ⟨⟨(h.connect s).rel, (k.connect s).rel⟩, (h.connect s).code⟩
  disconnect s := ⟨h.disconnect s, k.disconnect s⟩

/-! `massErase` reports the error it noted first (R281), so that its code is outward as long as `FIRST_ERR` is. -/

/-- `FIRST_ERR` does not hold `E_NO_TARGET`. -/
def NotesOutward (s : State) : Prop := s.seqRegs.firstErr ≠ some .eNoTarget

/-- `FIRST_ERR` stays outward. -/
def KeepsNotes (s t : State) : Prop := NotesOutward s → NotesOutward t

theorem NotesOutward.of_eq {s t : State} (h : t.seqRegs.firstErr = s.seqRegs.firstErr) : KeepsNotes s t := by
  unfold KeepsNotes NotesOutward
  rw [h]
  exact id

theorem BypassStable.ends_verifyPhase (hR : BypassStable R) (hn : ∀ s t, R s t → KeepsNotes s t) (i : ApIndex)
    {s : State} (hs : NotesOutward s) : Ends R s (verifyPhase i s) := by
  have hE := hR.toEngineStable
  refine (hR.ends_verifyAddrs _ _ s).tryThen_of_rel hE fun v s1 h1 => ?_
  refine (hR.ends_selectAp _ _ s1).tryThen_of_rel hE fun _ s2 h2 => ?_
  have hp := hR.ends_apRead (regLow s2.cfg.ctrlAp.ctrlapApprotectStatus) s2
  dsimp only
  generalize apRead (regLow s2.cfg.ctrlAp.ctrlapApprotectStatus) s2 = p at hp ⊢
  have hb : R s2 (note (selectAp p.2.cfg.power.memApIndex p.2.cfg.power.apCsw p.2)) :=
    hR.trans hp.rel (hR.rel_note (hR.ends_selectAp _ _ p.2))
  have hback := hn _ _ hb (hn _ _ h2 (hn _ _ h1 hs))
  generalize note (selectAp p.2.cfg.power.memApIndex p.2.cfg.power.apCsw p.2) = back at hb hback ⊢
  obtain ⟨v, u⟩ := p
  cases v with
  | error c => exact ⟨hb, fun e => hp.code (by simpa using e)⟩
  | ok v =>
    dsimp only
    split
    case h_1 c hc => exact (hR.ends_error (fun e => hback (by rw [hc, e])) back).after hE hb
    case h_2 => exact (Ends.ite (hR.ends_ok _ back) (hR.ends_error (by decide) back)).after hE hb

end Walk

theorem KeepsNotes.connectStable : ConnectStable KeepsNotes where
  toEngineStable := .of_wired (fun _ => id) (fun h k => k ∘ h) fun _ _ h => .of_eq (by rw [h.seqRegs])
  connection _ _ := .of_eq rfl
  idcode _ _ := .of_eq rfl
  polls _ _ := .of_eq rfl
  reinit _ := .of_eq rfl

theorem KeepsNotes.bypassStable : BypassStable KeepsNotes where
  toPollStable := connectStable.toPollStable
  noted c s hc := fun _ e => hc (by simpa using e)
  report d t l s := .of_eq (by unfold progress; split <;> rfl)
  connect := connectStable.ends_connect
  disconnect := connectStable.rel_disconnect

/-- The walk of `massErase`, made with `KeepsNotes` beside `R` so that the noted error it reports is outward. -/
theorem BypassStable.ends_massErase {R : State → State → Prop} (hR : BypassStable R)
    (hs : ∀ s, R s (findControlAccessPort s).2) (hc : ∀ s, R s (setFirstErr none s)) (s : State) :
    Ends R s (massErase s) := by
  have hN := hR.and KeepsNotes.bypassStable
  have hE := hN.toEngineStable
  have key : Ends (fun t u => R t u ∧ KeepsNotes t u) (setFirstErr none (findControlAccessPort s).2) (massErase s) := by
    refine (hN.ends_selectAp _ _ _).tryThen_of_rel hE fun _ s1 h1 => ?_
    have h2 := hN.trans (hN.rel_erasePhase s1) (hN.rel_leavePhase _)
    have hout : NotesOutward (leavePhase (erasePhase s1)) := h2.2 (h1.2 nofun)
    dsimp only
    generalize leavePhase (erasePhase s1) = s2 at h2 hout ⊢
    refine .after hE h2 ?_
    split
    case h_1 c hc => exact hN.ends_error (fun e => hout (by rw [hc, e])) s2
    case h_2 =>
      refine ((hN.connect _).after hE (hN.disconnect s2)).tryThen_of_rel hE fun _ s3 h3 => ?_
      refine (hN.ends_memApInit s3).tryThen_of_rel hE fun _ s4 h4 => ?_
      exact hN.ends_verifyPhase (fun _ _ h => h.2) _ (h4.2 (h3.2 hout))
  exact (key.mono fun _ h => h.1).after hR.toEngineStable (hR.trans (hs s) (hc _))

end Sys2Proof.Machine

/-! ## What one instruction may do -/

namespace Sys2Proof.Machine

/-! ### What a response leaves, and how an instruction responds -/

@[simp] theorem respond_cfg (r : Res (Option Word)) : (respond r).cfg = r.2.cfg := by
  obtain ⟨c | (_ | v), s⟩ := r <;> rfl
@[simp] theorem respond_pins (r : Res (Option Word)) : (respond r).pins = r.2.pins := by
  obtain ⟨c | (_ | v), s⟩ := r <;> rfl
@[simp] theorem respond_session (r : Res (Option Word)) : (respond r).session = r.2.session := by
  obtain ⟨c | (_ | v), s⟩ := r <;> rfl
@[simp] theorem respond_seqRegs (r : Res (Option Word)) : (respond r).seqRegs = r.2.seqRegs := by
  obtain ⟨c | (_ | v), s⟩ := r <;> rfl
@[simp] theorem respond_inputs (r : Res (Option Word)) : (respond r).inputs = r.2.inputs := by
  obtain ⟨c | (_ | v), s⟩ := r <;> rfl
@[simp] theorem respond_trace (r : Res (Option Word)) : (respond r).trace = r.2.trace := by
  obtain ⟨c | (_ | v), s⟩ := r <;> rfl
@[simp] theorem respond_rspValid (r : Res (Option Word)) : (respond r).ports.rspValid = true := by
  obtain ⟨c | (_ | v), s⟩ := r <;> rfl

theorem respond_hostPortsKept (r : Res (Option Word)) : HostPortsKept r.2 (respond r) := by
  obtain ⟨c | (_ | v), s⟩ := r <;> exact ⟨rfl, rfl, rfl, rfl, rfl, rfl⟩

theorem respond_status_ok (v : Option Word) (s : State) : (respond (.ok v, s)).ports.rspStatus = statusOk := by
  cases v <;> rfl

theorem respond_status_error (c : ErrCode) (s : State) : (respond (.error c, s)).ports.rspStatus = c.toByte := rfl

/-- The codes that leave the block are at most 0x0E (R300). -/
theorem respond_status_le {r : Res (Option Word)} (h : r.1 ≠ .error .eNoTarget) :
    (respond r).ports.rspStatus.toNat ≤ 0x0E := by
  obtain ⟨c | v, s⟩ := r
  · rw [respond_status_error]
    cases c with
    | eNoTarget => exact absurd rfl h
    | _ => decide
  · rw [respond_status_ok]; decide

theorem respond_mapInputs (r : Res (Option Word)) (f : Inputs → Inputs) :
    (respond r).mapInputs f = respond (r.1, r.2.mapInputs f) := by
  obtain ⟨c | (_ | v), s⟩ := r <;> rfl

theorem respondXfer_eq (isRead : Bool) (x : Xfer) : ∃ v, respondXfer isRead x = respond (.ok v, x.st) := by
  unfold respondXfer
  split
  · exact ⟨some x.rdata, rfl⟩
  · exact ⟨none, rfl⟩

/-! ### The two invariants as relations (R30, R37) -/

/-- R37's invariant is kept. -/
def KeepsQuiet (s t : State) : Prop := Quiet s → Quiet t

/-- R30: a Connected session holds a code that is not dead. -/
def Live (s : State) : Prop := s.session.connectionState = .connected → deadIdcode s.session.idcodeReg = false

/-- R30's invariant is kept. -/
def KeepsLive (s t : State) : Prop := Live s → Live t

/-- A transfer and a sending park the line, which is quiet (R37); the rest touches neither pins nor session. -/
theorem KeepsQuiet.engineStable : EngineStable KeepsQuiet where
  refl _ := id
  trans h k := k ∘ h
  transfer a p r d s := fun _ => (rawTransfer_parked a p r d s).1
  send bs _ := fun h => (quiet_sendBits bs h).1
  link _ _ := id
  delay _ _ := id

theorem quiet_progress (d t : Word) (l : ProgLabel) (s : State) : KeepsQuiet s (progress d t l s) := by
  unfold progress
  split <;> exact id

theorem KeepsQuiet.bufferStable : BufferStable KeepsQuiet where
  toEngineStable := engineStable
  polls _ _ := id
  seq _ _ := id
  readBuf _ _ := id
  report := quiet_progress

theorem KeepsQuiet.connectStable : ConnectStable KeepsQuiet where
  toEngineStable := engineStable
  connection _ _ := id
  idcode _ _ := id
  polls _ _ := id
  reinit _ := fun ⟨_, _, hlock⟩ => ⟨rfl, rfl, hlock⟩

theorem KeepsQuiet.bypassStable : BypassStable KeepsQuiet where
  toPollStable := connectStable.toPollStable
  noted _ _ _ := id
  report := quiet_progress
  connect := connectStable.ends_connect
  disconnect := connectStable.rel_disconnect

/-! ### Quiet single operations of the Link -/

theorem quiet_clockPulse (e : Event) (s : State) : KeepsQuiet s (clockPulse e s) :=
  fun ⟨_, hrest⟩ => ⟨rfl, hrest⟩

theorem quiet_turnaround (b : Bool) (s : State) : KeepsQuiet s (turnaround b s) :=
  fun ⟨_, _, hlock⟩ => ⟨rfl, by cases b <;> rfl, hlock⟩

theorem quiet_sample (s : State) : KeepsQuiet s (sample s).2 := by
  unfold sample
  split
  · exact id
  · split <;> exact id

theorem quiet_recvAll (n : Nat) (s : State) : KeepsQuiet s (recvAll n s).2 := by
  induction n generalizing s with
  | zero => exact id
  | succ n ih => exact ih _ ∘ quiet_clockPulse _ _ ∘ quiet_sample s

theorem quiet_readBits (n : Nat) (s : State) : KeepsQuiet s (readBits n s).2 := by
  intro h
  have he : Quiet (ensureReleased s) := by
    unfold ensureReleased
    split
    · exact quiet_turnaround false s h
    · exact h
  exact quiet_recvAll n _ he

theorem quiet_ackPhase (s : State) : KeepsQuiet s (ackPhase s).2 := quiet_readBits 3 s

/-! ### The session's code (R30, R171) -/

/-- What `readIdcode` and `identify` answer passed the validity test (R171). -/
theorem readIdcode_alive {s t : State} {v : Word} (h : readIdcode s = (.ok v, t)) : deadIdcode v = false := by
  unfold readIdcode at h
  generalize dpRead s.cfg.engine.dpIdcode s = r at h
  obtain ⟨c | w, u⟩ := r
  · simp [tryThen] at h
  · rw [tryThen_ok] at h
    split at h
    case isTrue => simp at h
    case isFalse hd =>
      obtain ⟨rfl, -⟩ : w = v ∧ u = t := by simpa using h
      simpa using hd

theorem identify_alive {s t : State} {v : Word} (h : identify s = (.ok v, t)) : deadIdcode v = false := by
  unfold identify at h
  split at h
  case h_1 w s1 heq =>
    obtain ⟨rfl, -⟩ : w = v ∧ s1 = t := by simpa using h
    exact readIdcode_alive heq
  case h_2 c s1 heq =>
    split at h
    case h_1 w s2 heq2 =>
      obtain ⟨rfl, -⟩ : w = v ∧ s2 = t := by simpa using h
      exact readIdcode_alive heq2
    case h_2 => simp at h

theorem Live.of_disconnected {s : State} (h : s.session.connectionState = .disconnected) : Live s := by
  intro hc
  rw [h] at hc
  cases hc

/-- The session's flag and code, which the two invariants of R30 and R175 speak of. -/
def flagAndCode (s : State) : ConnectionState × Word := (s.session.connectionState, s.session.idcodeReg)

theorem Live.of_flagAndCode {s t : State} (h : Same flagAndCode s t) : KeepsLive s t := by
  obtain ⟨hc, hi⟩ := Prod.mk.inj h
  unfold KeepsLive Live
  rw [hc, hi]
  exact id

theorem Wired.flagAndCode {s t : State} (h : Wired s t) : Same flagAndCode s t := by
  unfold Same Machine.flagAndCode
  rw [h.session]

theorem Same.progress {α : Type} {f : State → α} (he : ∀ e s, f (s.emit e) = f s)
    (hp : ∀ g s, f (s.mapPorts g) = f s) (d t : Word) (l : ProgLabel) (s : State) : Same f s (progress d t l s) := by
  unfold Machine.progress
  split
  · exact (hp _ _).trans (he _ _)
  · exact he _ _

/-- The scan and the flash operations leave the flag and the code alone (R175). -/
theorem flagAndCode_flashStable : FlashStable (Same flagAndCode) := .same (fun _ _ h => h.flagAndCode) fun _ _ => rfl

theorem flagAndCode_findControlAccessPort (s : State) : Same flagAndCode s (findControlAccessPort s).2 :=
  flagAndCode_flashStable.rel_findControlAccessPort (fun _ _ => rfl) s

/-- `connect` ends Disconnected or with the code it read, which is not dead (R170, R171). -/
theorem live_connect (s : State) : Live (connect s).2 := by
  have hdown := (flagAndCode_flashStable.ends_identify (sessionReinit s)).rel
  unfold connect
  generalize hr : identify (sessionReinit s) = r at hdown ⊢
  obtain ⟨c | v, s1⟩ := r
  · exact .of_disconnected (congrArg Prod.fst hdown)
  · have hcode : FlashStable (Same fun u : State => u.session.idcodeReg) :=
      .same (fun _ _ h => congrArg Prod.snd h.flagAndCode) fun _ _ => rfl
    have hE := hcode.toEngineStable
    have htail := (hcode.ends_powerUp (setIdcode v s1)).tryThen hE (k := fun _ s2 =>
        tryThen (memApInit s2) fun _ s3 => (.ok s3.session.idcodeReg, s3.setConnection .connected))
      fun _ s2 => (hcode.ends_memApInit s2).tryThen hE fun _ s3 => ⟨rfl, nofun⟩
    exact fun _ => (congrArg deadIdcode htail.rel).trans (identify_alive hr)

theorem KeepsLive.connect (s : State) : KeepsLive s (connect s).2 := fun _ => live_connect s

theorem KeepsLive.isConnected (s : State) : KeepsLive s (isConnected s).2 := by
  unfold Machine.isConnected
  split
  · exact id
  · split
    case h_1 v s1 heq => exact fun _ _ => readIdcode_alive heq
    case h_2 c s1 heq => exact fun _ => .of_disconnected rfl

theorem KeepsLive.resetTarget (s : State) : KeepsLive s (resetTarget s).2 := by
  unfold Machine.resetTarget
  split
  · exact fun _ => live_connect _
  · exact id

theorem connect_code (s : State) : (connect s).1 ≠ .error .eNoTarget :=
  (KeepsQuiet.connectStable.ends_connect s).code

theorem KeepsLive.bypassStable : BypassStable KeepsLive where
  toEngineStable := .of_wired (fun _ => id) (fun h k => k ∘ h) fun _ _ h => .of_flagAndCode h.flagAndCode
  polls _ _ := id
  noted _ _ _ := id
  report d t l s := .of_flagAndCode (Same.progress (fun _ _ => rfl) (fun _ _ => rfl) d t l s)
  connect s := ⟨KeepsLive.connect s, connect_code s⟩
  disconnect _ := fun _ => .of_disconnected rfl

/-! ### What the sequencers leave alone -/

/-- The buffer port and the progress port as one value (R27). -/
def hostPorts (s : State) : (Word × Byte) × Bool × Word × Word × ProgLabel :=
  ((s.ports.bufIndex, s.ports.bufByte), s.ports.progValid, s.ports.progDone, s.ports.progTotal, s.ports.progLabel)

theorem hostPortsKept_iff {s t : State} : HostPortsKept s t ↔ Same hostPorts s t := by
  simp [HostPortsKept, Same, hostPorts, and_assoc]

theorem Wired.hostPorts {s t : State} (h : Wired s t) : Same hostPorts s t := hostPortsKept_iff.1 h.ports

theorem HostPortsKept.buffer {s t : State} (h : HostPortsKept s t) :
    t.ports.bufIndex = s.ports.bufIndex ∧ t.ports.bufByte = s.ports.bufByte := by
  obtain ⟨hindex, hbyte, -⟩ := h
  exact ⟨hindex, hbyte⟩

theorem HostPortsKept.progress {s t : State} (h : HostPortsKept s t) :
    t.ports.progValid = s.ports.progValid ∧ t.ports.progDone = s.ports.progDone
      ∧ t.ports.progTotal = s.ports.progTotal ∧ t.ports.progLabel = s.ports.progLabel := by
  obtain ⟨-, -, hprog⟩ := h
  exact hprog

/-- The flash operations without a buffer and without reports keep the ports (R123). -/
theorem hostPorts_flashStable : FlashStable (Same hostPorts) := .same (fun _ _ h => h.hostPorts) fun _ _ => rfl

/-- What `disconnect` and `isConnected` keep beside the flag and the code. -/
def besideSession (s : State) := (s.seqRegs, hostPorts s, s.session.ctrlApIndex, s.pins.nreset)

theorem besideSession_sessionStable : SessionStable (Same besideSession) where
  toEngineStable := EngineStable.same fun _ _ h => by
    unfold besideSession
    rw [h.seqRegs, h.hostPorts, h.session, h.nreset]
  connection _ _ := rfl
  idcode _ _ := rfl

/-- What `connect` keeps beside its own. -/
def besideConnect (s : State) := (hostPorts s, s.session.ctrlApIndex, s.pins.nreset)

theorem besideConnect_connectStable : ConnectStable (Same besideConnect) :=
  .same
    (fun _ _ h => by
      unfold besideConnect
      rw [h.hostPorts, h.session, h.nreset])
    (fun _ _ => rfl) (fun _ _ => rfl) (fun _ _ => rfl) fun _ => rfl

/-- What `resetTarget` keeps. -/
def besideReset (s : State) := (hostPorts s, s.session.ctrlApIndex)

theorem besideReset_connectStable : ConnectStable (Same besideReset) :=
  .same
    (fun _ _ h => by
      unfold besideReset
      rw [h.hostPorts, h.session])
    (fun _ _ => rfl) (fun _ _ => rfl) (fun _ _ => rfl) fun _ => rfl

/-- What the scan keeps. -/
def besideScan (s : State) := (hostPorts s, flagAndCode s, s.pins.nreset)

theorem besideScan_flashStable : FlashStable (Same besideScan) :=
  .same
    (fun _ _ h => by
      unfold besideScan
      rw [h.hostPorts, h.flagAndCode, h.nreset])
    fun _ _ => rfl

/-- What `massErase` keeps. -/
def besideMassErase (s : State) := ((s.ports.bufIndex, s.ports.bufByte), s.pins.nreset)

theorem Wired.besideMassErase {s t : State} (h : Wired s t) : Same besideMassErase s t := by
  unfold Same Machine.besideMassErase
  obtain ⟨hindex, hbyte⟩ := h.ports.buffer
  rw [hindex, hbyte, h.nreset]

theorem besideMassErase_connectStable : ConnectStable (Same besideMassErase) :=
  .same (fun _ _ h => h.besideMassErase) (fun _ _ => rfl) (fun _ _ => rfl) (fun _ _ => rfl) fun _ => rfl

theorem besideMassErase_flashStable : FlashStable (Same besideMassErase) :=
  .same (fun _ _ h => h.besideMassErase) fun _ _ => rfl

theorem besideMassErase_bypassStable : BypassStable (Same besideMassErase) where
  toPollStable := besideMassErase_connectStable.toPollStable
  noted _ _ _ := rfl
  report d t l s := by unfold progress; split <;> rfl
  connect := besideMassErase_connectStable.ends_connect
  disconnect := besideMassErase_connectStable.rel_disconnect

/-! ### The effect of an instruction -/

/-- What instruction `i` may change between `s` and `t`, one clause per part of the state: the whole of the frame
claims, said once. -/
structure Effect (i : Instr) (s t : State) : Prop where
  host : ∃ n, t.inputs = { s.inputs with line := s.inputs.line.drop n }
  busyOp : t.session.busy = s.session.busy ∧ t.session.op = s.session.op
  quiet : KeepsQuiet s t
  live : KeepsLive s t
  valid : validConfig s.cfg = true → validConfig t.cfg = true
  continues : loadsConfig i = false → t.cfg = s.cfg ∧ ∃ es, t.trace = s.trace ++ es
  parked : mayRelease i = false → Parked s → Parked t
  flagAndCode : movesSession i = false → Same flagAndCode s t
  ctrlApIndex : writesCtrlApIndex i = false → t.session.ctrlApIndex = s.session.ctrlApIndex
  nreset : writesNreset i = false → t.pins.nreset = s.pins.nreset
  seqRegs : usesSeqRegs i = false → t.seqRegs = s.seqRegs
  buffer : readsBuffer i = false → t.ports.bufIndex = s.ports.bufIndex ∧ t.ports.bufByte = s.ports.bufByte
  report : reportsProgress i = false →
    t.ports.progValid = s.ports.progValid ∧ t.ports.progDone = s.ports.progDone
      ∧ t.ports.progTotal = s.ports.progTotal ∧ t.ports.progLabel = s.ports.progLabel

/-- A response changes no more than the response port and the count of free values. -/
theorem Effect.respond {i : Instr} {s : State} {r : Res (Option Word)} (h : Effect i s r.2) :
    Effect i s (respond r) where
  host := by simpa using h.host
  busyOp := by simpa using h.busyOp
  quiet := fun hq => by simpa [Quiet] using h.quiet hq
  live := fun hl => by simpa [Live] using h.live hl
  valid := by simpa using h.valid
  continues := by simpa using h.continues
  parked := fun hi hp => by simpa [Parked, Quiet] using h.parked hi hp
  flagAndCode := by simpa [Same, Machine.flagAndCode] using h.flagAndCode
  ctrlApIndex := by simpa using h.ctrlApIndex
  nreset := by simpa using h.nreset
  seqRegs := by simpa using h.seqRegs
  buffer := fun hi => by
    obtain ⟨h1, h2⟩ := (respond_hostPortsKept r).buffer
    rw [h1, h2]
    exact h.buffer hi
  report := fun hi => by
    obtain ⟨h1, h2, h3, h4⟩ := (respond_hostPortsKept r).progress
    rw [h1, h2, h3, h4]
    exact h.report hi

section Classes

variable {i : Instr} {s t : State}

/-- Operations of the Link and of the Transaction Engine. -/
theorem Effect.of_wired (h : Wired s t) (hq : KeepsQuiet s t) (hp : mayRelease i = false → Parked s → Parked t) :
    Effect i s t where
  host := h.host
  busyOp := by rw [h.session]; exact ⟨rfl, rfl⟩
  quiet := hq
  live := .of_flagAndCode h.flagAndCode
  valid := by rw [h.cfg]; exact id
  continues _ := ⟨h.cfg, h.trace⟩
  parked := hp
  flagAndCode _ := h.flagAndCode
  ctrlApIndex _ := by rw [h.session]
  nreset _ := h.nreset
  seqRegs _ := h.seqRegs
  buffer _ := h.ports.buffer
  report _ := h.ports.progress

theorem Effect.of_ran (h : Ran s t) (hq : KeepsQuiet s t) : Effect i s t := .of_wired h.wired hq fun _ => h.parked

/-- Operations of the sequencers, by what they keep beside R28, R34 and R38. -/
theorem Effect.of_advanced (h : Advanced s t) (hq : KeepsQuiet s t) (hl : KeepsLive s t)
    (hflag : movesSession i = false → Same Machine.flagAndCode s t)
    (hctrl : writesCtrlApIndex i = false → t.session.ctrlApIndex = s.session.ctrlApIndex)
    (hn : writesNreset i = false → t.pins.nreset = s.pins.nreset)
    (hseq : usesSeqRegs i = false → t.seqRegs = s.seqRegs)
    (hb : readsBuffer i = false → t.ports.bufIndex = s.ports.bufIndex ∧ t.ports.bufByte = s.ports.bufByte)
    (hp : reportsProgress i = false →
      t.ports.progValid = s.ports.progValid ∧ t.ports.progDone = s.ports.progDone
        ∧ t.ports.progTotal = s.ports.progTotal ∧ t.ports.progLabel = s.ports.progLabel) : Effect i s t where
  host := h.host
  busyOp := h.busyOp
  quiet := hq
  live := hl
  valid := by rw [h.cfg]; exact id
  continues _ := ⟨h.cfg, h.trace⟩
  parked _ := h.parked
  flagAndCode := hflag
  ctrlApIndex := hctrl
  nreset := hn
  seqRegs := hseq
  buffer := hb
  report := hp

/-- Operations that use the sequencers' registers and leave the session alone. -/
theorem Effect.of_worked (h : Worked s t) (hq : KeepsQuiet s t) (hi : usesSeqRegs i = true)
    (hb : readsBuffer i = false → t.ports.bufIndex = s.ports.bufIndex ∧ t.ports.bufByte = s.ports.bufByte)
    (hp : reportsProgress i = false →
      t.ports.progValid = s.ports.progValid ∧ t.ports.progDone = s.ports.progDone
        ∧ t.ports.progTotal = s.ports.progTotal ∧ t.ports.progLabel = s.ports.progLabel) : Effect i s t := by
  have hflag : Same Machine.flagAndCode s t := by
    unfold Same Machine.flagAndCode
    rw [h.session]
  exact .of_advanced h.advanced hq (.of_flagAndCode hflag) (fun _ => hflag) (fun _ => by rw [h.session])
    (fun _ => h.nreset) (fun e => absurd hi (by simp [e])) hb hp

/-- Operations that use the sequencers' registers and leave the session, the buffer and the progress port alone. -/
theorem Effect.of_worked_silent (h : Worked s t) (hq : KeepsQuiet s t) (hi : usesSeqRegs i = true)
    (hk : Same hostPorts s t) : Effect i s t :=
  .of_worked h hq hi (fun _ => (hostPortsKept_iff.2 hk).buffer) fun _ => (hostPortsKept_iff.2 hk).progress

end Classes

/-! ### The wire rows -/

/-- A request row is the transfer its byte stands for, and so is `rawTransfer` (R107, R190; log 1). -/
theorem exec_transfer {i : Instr} {a : Addr4} {p r : Bool} {d : Word} (h : transferOf i = some (a, p, r, d)) (s : State) :
    exec i s = .next (respondXfer r (rawTransfer a p r d s)) := by
  cases i <;> cases h <;> rfl

theorem exec_ack {i : Instr} {a : BitVec 3} (h : ackOf i = some a) (s : State) : exec i s = .next (runAck a s) := by
  cases i <;> cases h <;> rfl

theorem mayRelease_of_ack {i : Instr} {a : BitVec 3} (h : ackOf i = some a) : mayRelease i = true := by
  cases i <;> cases h <;> rfl

theorem exec_frameRow {i : Instr} (h : isFrameRow i = true) (s : State) :
    ∃ a p r d bits, exec i s = .next (runFrame a p r d bits s) := by
  cases i with
  | frameReadOk p reg d par => exact ⟨_, _, _, _, _, rfl⟩
  | frameWriteOk p reg d => exact ⟨_, _, _, _, _, rfl⟩
  | frameNotOk p r reg k => exact ⟨_, _, _, _, _, rfl⟩
  | _ => cases h

/-! R37: from a quiet state a sequence leaves the line driven, wherever it was. -/

theorem quiet_writeBits {s : State} (v : Word) (n : Nat) (h : Quiet s) : Parked (writeBits v n s) := quiet_sendBits _ h

theorem quiet_lineReset {s : State} (h : Quiet s) : Parked (lineReset s) := by
  unfold lineReset
  exact quiet_sendBits _ h

theorem quiet_jtagToSwdSequence {s : State} (h : Quiet s) : Parked (jtagToSwdSequence s) :=
  quiet_lineReset (quiet_writeBits _ _ h).1

theorem quiet_dormantWakeSequence {s : State} (h : Quiet s) : Parked (dormantWakeSequence s) := by
  unfold dormantWakeSequence
  exact quiet_lineReset <| And.left <| quiet_writeBits _ _ <| And.left <| quiet_sendBits _ <| And.left <|
    quiet_writeBits _ _ <| And.left <| quiet_writeBits _ _ <| And.left <| quiet_writeBits _ _ <| And.left <|
    quiet_writeBits _ _ <| And.left <| quiet_sendBits _ h

/-- A sequence row and the operation of the same name run the same sequence (R112 to R114; log 1). -/
theorem exec_sequence {i : Instr} {cfg : Params} (h : (sequenceOf cfg i).isSome = true) (s : State) :
    ∃ t, exec i s = .next (respondDone t) ∧ Ran s t ∧ (Quiet s → Parked t) := by
  cases i with
  | lineReset | seqLineReset => exact ⟨_, rfl, ran_lineReset s, quiet_lineReset⟩
  | jtagToSwdSequence | seqJtagToSwd => exact ⟨_, rfl, ran_jtagToSwdSequence s, quiet_jtagToSwdSequence⟩
  | dormantWakeSequence | seqDormantWake => exact ⟨_, rfl, ran_dormantWakeSequence s, quiet_dormantWakeSequence⟩
  | _ => cases h

/-- Bits put on the line for one instruction and taken back leave a wire operation a wire operation (log 1). -/
theorem wired_answered (bits : List Bool) {f : State → State} (h : ∀ u, Wired u (f u)) (s : State) :
    Wired s (answered bits f s) := by
  have hw := h (s.mapInputs fun x => { x with line := bits.map some })
  obtain ⟨n, hn⟩ := hw.host
  refine ⟨hw.cfg, ⟨0, ?_⟩, hw.trace, hw.nreset, hw.session, hw.seqRegs, hw.ports⟩
  simp [answered, hn]

theorem quiet_answered (bits : List Bool) {f : State → State} (h : ∀ u, KeepsQuiet u (f u)) (s : State) :
    KeepsQuiet s (answered bits f s) :=
  fun hq => h (s.mapInputs fun x => { x with line := bits.map some }) hq

theorem quiet_mapPorts (f : Ports → Ports) (s : State) : KeepsQuiet s (s.mapPorts f) := id

theorem parked_mapInputs {s : State} (f : Inputs → Inputs) (h : Parked s) : Parked (s.mapInputs f) := h

/-- A frame row is a transfer between the two turns of the line (R102; log 1). -/
theorem runFrame_eq (a : Addr4) (p r : Bool) (d : Word) (bits : List Bool) (s : State) :
    ∃ v, runFrame a p r d bits s = respond (.ok v, answered bits (fun u => (rawTransfer a p r d u).st) s) := by
  obtain ⟨v, hv⟩ := respondXfer_eq r (rawTransfer a p r d (s.mapInputs fun x => { x with line := bits.map some }))
  refine ⟨v, ?_⟩
  unfold runFrame answered runRequest
  rw [hv, respond_mapInputs]

/-- Whatever bits the frame row brings, the line is parked behind it (R37). -/
theorem runFrame_parked (a : Addr4) (p r : Bool) (d : Word) (bits : List Bool) (s : State) :
    Parked (answered bits (fun u => (rawTransfer a p r d u).st) s) := by
  unfold answered
  exact parked_mapInputs _ (rawTransfer_parked a p r d _)

theorem parked_respond {r : Res (Option Word)} (h : Parked r.2) : Parked (respond r) := by
  simpa [Parked, Quiet] using h

/-- A transfer, a frame or a fixed sequence leaves the line driven wherever it was (R37). -/
theorem parked_of_wireRow {i : Instr} {s t : State}
    (hi : (transferOf i).isSome ∨ isFrameRow i = true ∨ (sequenceOf s.cfg i).isSome) (hq : Quiet s)
    (h : exec i s = .next t) : Parked t := by
  rcases hi with hi | hi | hi
  · obtain ⟨⟨a, p, r, d⟩, hx⟩ := Option.isSome_iff_exists.1 hi
    obtain ⟨v, hv⟩ := respondXfer_eq r (rawTransfer a p r d s)
    have hrun := (exec_transfer hx s).trans (congrArg _ hv)
    obtain rfl := Host.Outcome.next.inj (hrun.symm.trans h)
    exact parked_respond (rawTransfer_parked a p r d s)
  · obtain ⟨a, p, r, d, bits, he⟩ := exec_frameRow hi s
    obtain ⟨v, hv⟩ := runFrame_eq a p r d bits s
    have hrun := he.trans (congrArg _ hv)
    obtain rfl := Host.Outcome.next.inj (hrun.symm.trans h)
    exact parked_respond (runFrame_parked a p r d bits s)
  · obtain ⟨u, he, -, hpark⟩ := exec_sequence hi s
    obtain rfl := Host.Outcome.next.inj (he.symm.trans h)
    exact parked_respond (hpark hq)

/-! ### Every instruction -/

/-- Instruction `i` answers with one response, whose code leaves the block, and has its effect (R26, R300, R316). -/
inductive Gives (i : Instr) (s : State) : Prop where
  | of_res (r : Res (Option Word)) (ran : exec i s = .next (respond r)) (code : r.1 ≠ .error .eNoTarget)
      (effect : Effect i s r.2)

theorem effect_linkInit (a d : Word) (p : Params) (s : State) : Effect (.linkInit a d) s (linkInit p s).2 := by
  unfold linkInit
  split
  case isTrue hv =>
    exact
      { host := ⟨0, rfl⟩
        busyOp := ⟨rfl, rfl⟩
        quiet := fun _ => ⟨rfl, rfl, rfl⟩
        live := fun _ => .of_disconnected rfl
        valid := fun _ => hv
        continues := nofun
        parked := fun _ _ => ⟨⟨rfl, rfl, rfl⟩, rfl⟩
        flagAndCode := nofun
        ctrlApIndex := nofun
        nreset := nofun
        seqRegs := nofun
        buffer := fun _ => ⟨rfl, rfl⟩
        report := fun _ => ⟨rfl, rfl, rfl, rfl⟩ }
  case isFalse => exact .of_ran (Ran.refl s) id

theorem gives_transfer {i : Instr} {a : Addr4} {p r : Bool} {d : Word} (h : transferOf i = some (a, p, r, d))
    (s : State) : Gives i s := by
  obtain ⟨v, hv⟩ := respondXfer_eq r (rawTransfer a p r d s)
  exact ⟨_, (exec_transfer h s).trans (congrArg _ hv), nofun,
    .of_ran (ran_rawTransfer a p r d s) fun _ => (rawTransfer_parked a p r d s).1⟩

theorem gives_frameRow {i : Instr} (h : isFrameRow i = true) (s : State) : Gives i s := by
  obtain ⟨a, p, r, d, bits, he⟩ := exec_frameRow h s
  obtain ⟨v, hv⟩ := runFrame_eq a p r d bits s
  have hp := runFrame_parked a p r d bits s
  exact ⟨_, he.trans (congrArg _ hv), nofun,
    .of_wired (wired_answered bits (fun u => wired_rawTransfer a p r d u) s) (fun _ => hp.1) fun _ _ => hp⟩

theorem gives_ack {i : Instr} {a : BitVec 3} (h : ackOf i = some a) (s : State) : Gives i s := by
  have hw := wired_answered (lsbBits a 3)
    (fun u => (wired_ackPhase u).trans (wired_xferStatus (decodeAck u.cfg (ackPhase u).1) _)) s
  have hi := mayRelease_of_ack h
  exact ⟨(.ok none, _), exec_ack h s, nofun, .of_wired hw
    (quiet_answered _ (fun u => quiet_mapPorts _ _ ∘ quiet_ackPhase u) s) fun hn => absurd hi (by simp [hn])⟩

theorem gives_sequence {i : Instr} {cfg : Params} (h : (sequenceOf cfg i).isSome = true) (s : State) :
    Gives i s := by
  obtain ⟨t, he, hr, hq⟩ := exec_sequence h s
  exact ⟨(.ok none, t), he, nofun, .of_ran hr fun h => (hq h).1⟩

/-- An operation of the Transaction Engine. -/
theorem Gives.of_ran {i : Instr} {s : State} {α : Type} {r : Res α} (f : α → Option Word)
    (he : exec i s = .next (respond (r.1.map f, r.2))) (hr : Ran s r.2) (h : Ends KeepsQuiet s r) : Gives i s :=
  ⟨_, he, (h.map f).code, .of_ran hr h.rel⟩

/-- An operation that uses the sequencers' registers, and neither the session nor the host's ports. -/
theorem Gives.of_worked {i : Instr} {s : State} {r : Res Unit} (he : exec i s = .next (respondUnit r))
    (hi : usesSeqRegs i = true) (hr : Worked s r.2) (h : Ends KeepsQuiet s r) (hk : Ends (Same hostPorts) s r) :
    Gives i s :=
  ⟨_, he, (h.map _).code, .of_worked_silent hr h.rel hi hk.rel⟩

/-- An operation that cannot fail. -/
theorem Gives.of_done {i : Instr} {s t : State} (v : Option Word) (he : exec i s = .next (respond (.ok v, t)))
    (h : Effect i s t) : Gives i s :=
  ⟨_, he, nofun, h⟩

theorem gives_linkInit (a d : Word) (s : State) : Gives (.linkInit a d) s := by
  refine ⟨_, rfl, ?_, effect_linkInit a d s.inputs.config s⟩
  unfold linkInit
  split <;> simp [Except.map]

theorem effect_connect (s : State) : Effect .connect s (connect s).2 := by
  have hk := (besideConnect_connectStable.ends_connect s).rel
  obtain ⟨hports, hctrl, hn⟩ : _ ∧ _ ∧ _ := by simpa [Same, besideConnect] using hk
  exact .of_advanced (advanced_connect s) (KeepsQuiet.connectStable.ends_connect s).rel (KeepsLive.connect s) nofun
    (fun _ => hctrl) (fun _ => hn) nofun (fun _ => (hostPortsKept_iff.2 hports).buffer)
    fun _ => (hostPortsKept_iff.2 hports).progress

theorem gives_connect (s : State) : Gives .connect s :=
  .of_res _ rfl ((KeepsQuiet.connectStable.ends_connect s).map some).code (effect_connect s)

/-- `disconnect` and `isConnected`: no working register of the sequencers, no port (R172, R173). -/
theorem Effect.of_besideSession {i : Instr} {s t : State} (hi : movesSession i = true) (h : Advanced s t)
    (hq : KeepsQuiet s t) (hl : KeepsLive s t) (hk : Same besideSession s t) : Effect i s t := by
  obtain ⟨hseq, hports, hctrl, hn⟩ : _ ∧ _ ∧ _ ∧ _ := by simpa [Same, besideSession] using hk
  exact .of_advanced h hq hl (fun e => absurd hi (by simp [e])) (fun _ => hctrl) (fun _ => hn) (fun _ => hseq)
    (fun _ => (hostPortsKept_iff.2 hports).buffer) fun _ => (hostPortsKept_iff.2 hports).progress

theorem gives_resetTarget (s : State) : Gives .resetTarget s := by
  have hk := (besideReset_connectStable.ends_resetTarget (fun _ _ => rfl) s).rel
  obtain ⟨hports, hctrl⟩ : _ ∧ _ := by simpa [Same, besideReset] using hk
  have h := KeepsQuiet.connectStable.ends_resetTarget (fun _ _ => id) s
  exact ⟨_, rfl, (h.map some).code, .of_advanced (advanced_resetTarget s) h.rel (KeepsLive.resetTarget s) nofun
    (fun _ => hctrl) nofun nofun (fun _ => (hostPortsKept_iff.2 hports).buffer)
    fun _ => (hostPortsKept_iff.2 hports).progress⟩

theorem gives_findControlAccessPort (s : State) : Gives .findControlAccessPort s := by
  have hk := besideScan_flashStable.rel_findControlAccessPort (fun _ _ => rfl) s
  obtain ⟨hports, hflag, hn⟩ : _ ∧ _ ∧ _ := by simpa [Same, besideScan] using hk
  refine ⟨_, rfl, nofun, .of_advanced (advanced_scanPorts _ _ s) ?_ (.of_flagAndCode hflag) (fun _ => hflag) nofun
    (fun _ => hn) nofun (fun _ => (hostPortsKept_iff.2 hports).buffer) fun _ => (hostPortsKept_iff.2 hports).progress⟩
  exact KeepsQuiet.bufferStable.rel_findControlAccessPort (fun _ _ => id) s

theorem gives_massErase (s : State) : Gives .massErase s := by
  have hk := (besideMassErase_bypassStable.ends_massErase
    (besideMassErase_flashStable.rel_findControlAccessPort fun _ _ => rfl) (fun _ => rfl) s).rel
  obtain ⟨hbuf, hn⟩ : _ ∧ _ := by simpa [Same, besideMassErase] using hk
  have h := KeepsQuiet.bypassStable.ends_massErase
    (KeepsQuiet.bufferStable.rel_findControlAccessPort fun _ _ => id) (fun _ => id) s
  have hl := KeepsLive.bypassStable.ends_massErase
    (fun u => .of_flagAndCode (flagAndCode_findControlAccessPort u)) (fun _ => id) s
  exact ⟨_, rfl, (h.map _).code, .of_advanced (advanced_massErase s) h.rel hl.rel nofun nofun (fun _ => hn) nofun
    (fun _ => hbuf) nofun⟩

/-- Every instruction, by the class of operations it belongs to. -/
theorem exec_gives (i : Instr) (s : State) : Gives i s := by
  have hE := KeepsQuiet.engineStable
  have hB := KeepsQuiet.bufferStable
  have hP := hostPorts_flashStable
  cases i with
  | reqDpRead0 | reqDpRead4 | reqDpRead8 | reqDpReadC | reqDpWrite0 | reqDpWrite4 | reqDpWrite8 | reqDpWriteC
  | reqApRead0 | reqApRead4 | reqApRead8 | reqApReadC | reqApWrite0 | reqApWrite4 | reqApWrite8 | reqApWriteC
  | rawTransfer => exact gives_transfer rfl s
  | ackReserved000 | ackOk | ackWait | ackReserved011 | ackFault | ackReserved101 | ackReserved110
  | ackReserved111 => exact gives_ack rfl s
  | frameReadOk | frameWriteOk | frameNotOk => exact gives_frameRow rfl s
  | lineReset | seqLineReset | jtagToSwdSequence | seqJtagToSwd | dormantWakeSequence | seqDormantWake =>
    exact gives_sequence (cfg := s.cfg) rfl s
  | linkInit a d => exact gives_linkInit a d s
  | clockPulse =>
    exact .of_done none rfl (.of_wired (wired_clockPulse _ s) (quiet_clockPulse _ s)
      fun _ ⟨⟨_, hq⟩, hd⟩ => ⟨⟨rfl, hq⟩, hd⟩)
  | writeBits v n => exact .of_done none rfl (.of_ran (ran_writeBits v _ s) fun hq => (quiet_writeBits v _ hq).1)
  | readBits n => exact .of_done (some _) rfl (.of_wired (wired_readBits _ s) (quiet_readBits _ s) nofun)
  | turnaround b => exact .of_done none rfl (.of_wired (wired_turnaround b s) (quiet_turnaround b s) nofun)
  | parity32 v => exact .of_done (some _) rfl (.of_ran (Ran.refl s) id)
  | dpRead a => exact .of_ran some rfl (ran_dpRead a s) (hE.ends_dpRead a s)
  | dpWrite a d => exact .of_ran (fun _ => none) rfl (ran_dpWrite a d s) (hE.ends_dpWrite a d s)
  | apRead a => exact .of_ran some rfl (ran_apRead a s) (hE.ends_apRead a s)
  | apWrite a d => exact .of_ran (fun _ => none) rfl (ran_apWrite a d s) (hE.ends_apWrite a d s)
  | memApInit => exact .of_ran (fun _ => none) rfl (ran_memApInit s) (hE.ends_memApInit s)
  | readWord a => exact .of_ran some rfl (ran_memReadWord a s) (hE.ends_memReadWord a s)
  | writeWord a v => exact .of_ran (fun _ => none) rfl (ran_memWriteWord a v s) (hE.ends_memWriteWord a v s)
  | setControllerMode m =>
    exact .of_ran (fun _ => none) rfl (ran_setControllerMode m s) (hE.ends_setControllerMode m s)
  | powerUp => exact .of_worked rfl rfl (worked_powerUp s) (hB.ends_powerUp s) (hP.ends_powerUp s)
  | waitControllerReady t =>
    exact .of_worked rfl rfl (worked_waitControllerReady _ s) (hB.ends_waitControllerReady _ s)
      (hP.ends_waitControllerReady _ s)
  | erasePage a => exact .of_worked rfl rfl (worked_erasePage a s) (hB.ends_erasePage a s) (hP.ends_erasePage a s)
  | flashWriteWord a d =>
    exact .of_worked rfl rfl (worked_flashWriteWord a d s) (hB.ends_flashWriteWord a d s) (hP.ends_flashWriteWord a d s)
  | eraseAll => exact .of_worked rfl rfl (worked_eraseAll s) (hB.ends_eraseAll s) (hP.ends_eraseAll s)
  | writeBuffer a n =>
    have h := hB.ends_writeBuffer a n s
    exact ⟨_, rfl, (h.map _).code, .of_worked (worked_writeBuffer a n s) h.rel rfl nofun nofun⟩
  | updateFirmware a n v =>
    have h := hB.ends_updateFirmware a n v s
    exact ⟨_, rfl, (h.map _).code, .of_worked (worked_updateFirmware a n v s) h.rel rfl nofun nofun⟩
  | connect => exact gives_connect s
  | disconnect =>
    exact .of_done none rfl (.of_besideSession rfl (advanced_disconnect s) (KeepsQuiet.connectStable.rel_disconnect s)
      (fun _ => .of_disconnected rfl) (besideSession_sessionStable.rel_disconnect s))
  | isConnected =>
    exact .of_done (some _) rfl (.of_besideSession rfl (advanced_isConnected s)
      (KeepsQuiet.connectStable.rel_isConnected s) (KeepsLive.isConnected s)
      (besideSession_sessionStable.rel_isConnected s))
  | resetTarget => exact gives_resetTarget s
  | findControlAccessPort => exact gives_findControlAccessPort s
  | massErase => exact gives_massErase s

/-- The effect of an instruction on the state it answers with. -/
theorem effect_of_exec {i : Instr} {s t : State} (h : exec i s = .next t) : Effect i s t := by
  obtain ⟨r, he, -, heff⟩ := exec_gives i s
  obtain rfl : respond r = t := by simpa [he] using h
  exact heff.respond

end Sys2Proof.Machine

/-! ## What one step may do -/

namespace Sys2Proof.Machine

/-! ### How a call is taken in and how it ends -/

section Retire

variable (s : State)

@[simp] theorem retire_cfg : s.retire.cfg = s.cfg := by unfold State.retire; split <;> rfl
@[simp] theorem retire_pins : s.retire.pins = s.pins := by unfold State.retire; split <;> rfl
@[simp] theorem retire_ports : s.retire.ports = s.ports := by unfold State.retire; split <;> rfl
@[simp] theorem retire_inputs : s.retire.inputs = s.inputs := by unfold State.retire; split <;> rfl
@[simp] theorem retire_trace : s.retire.trace = s.trace := by unfold State.retire; split <;> rfl
@[simp] theorem retire_busy : s.retire.session.busy = false := by unfold State.retire; split <;> rfl
@[simp] theorem retire_driveState : s.retire.session.driveState = s.session.driveState := by
  unfold State.retire; split <;> rfl
@[simp] theorem retire_connectionState : s.retire.session.connectionState = s.session.connectionState := by
  unfold State.retire; split <;> rfl
@[simp] theorem retire_lock : s.retire.session.lock = s.session.lock := by unfold State.retire; split <;> rfl
@[simp] theorem retire_idcodeReg : s.retire.session.idcodeReg = s.session.idcodeReg := by
  unfold State.retire; split <;> rfl

end Retire

theorem quiet_retire (s : State) : KeepsQuiet s s.retire := fun h => by simpa [Quiet] using h

theorem live_retire (s : State) : KeepsLive s s.retire := fun h => by simpa [Live] using h

/-! ### One step -/

/-- A call that decodes runs its instruction, and the step ends as the instruction does (R26, R41). -/
theorem step_of_decode {s : State} {c : HostCall} {rest : List HostCall} {i : Instr} (hs : s.inputs.stream = c :: rest)
    (hb : s.session.busy = false) (hd : decode c.request = .ok i) :
    (∀ t, exec i (s.accept c rest) = .next t → step s = .next t.retire)
      ∧ (∀ f, exec i (s.accept c rest) = .fault f → step s = .fault f)
      ∧ ∀ r, exec i (s.accept c rest) = .refused r → step s = .refused r := by
  refine ⟨fun t h => ?_, fun f h => ?_, fun r h => ?_⟩ <;> simp [step, hs, hb, hd, h]

theorem step_idle {s : State} (hs : s.inputs.stream = []) : step s = .next s.idle := by
  simp only [step, hs]

theorem step_busy {s : State} (hs : s.inputs.stream ≠ []) (hb : s.session.busy = true) :
    step s = .refused .callWhileBusy := by
  unfold step
  split
  case h_1 h => exact absurd h hs
  case h_2 => simp [hb]

/-- How a step can answer a next state. -/
inductive Stepped (s : State) : State → Prop where
  /-- Without a call the block is idle (R343). -/
  | idle (hs : s.inputs.stream = []) : Stepped s s.idle
  /-- The command port refuses the code (R119). -/
  | rejected {c : HostCall} {rest : List HostCall} (hs : s.inputs.stream = c :: rest) (hb : s.session.busy = false) :
      Stepped s (s.rejectOp c rest)
  /-- The call's instruction ran to its end (R26, R41). -/
  | ran {c : HostCall} {rest : List HostCall} {i : Instr} {r : Res (Option Word)} (hs : s.inputs.stream = c :: rest)
      (hb : s.session.busy = false) (hd : decode c.request = .ok i) (he : Effect i (s.accept c rest) r.2) :
      Stepped s (respond r).retire

/-- A step that answers a next state idled, refused a code at the port, or ran an instruction. -/
theorem stepped_of_step {s t : State} (h : step s = .next t) : Stepped s t := by
  unfold step at h
  split at h
  case h_1 hs =>
    obtain rfl : s.idle = t := by simpa using h
    exact .idle hs
  case h_2 c rest hs =>
    split at h
    · cases h
    case isFalse hb =>
      have hb : s.session.busy = false := by simpa using hb
      split at h
      case h_1 i hd =>
        obtain ⟨r, ran, -, effect⟩ := exec_gives i (s.accept c rest)
        obtain rfl : (respond r).retire = t := by simpa [ran] using h
        exact .ran hs hb hd effect
      case h_2 op hd =>
        obtain rfl : s.rejectOp c rest = t := by simpa using h
        exact .rejected hs hb
      case h_3 => cases h

/-! ### The invariant -/

theorem consistent_iff {s : State} : Consistent s ↔
    Quiet s ∧ BuffersCanonical s ∧ s.session.busy = false ∧ validConfig s.cfg = true ∧ Live s := Iff.rfl

/-- Presenting the next call keeps the lent buffers canonical (log 11). -/
theorem buffersCanonical_present {s : State} {c : HostCall} {rest : List HostCall} (hs : s.inputs.stream = c :: rest)
    (h : BuffersCanonical s) : BuffersCanonical (s.present c rest) := by
  have hall := h.2
  rw [hs, List.forall_mem_cons] at hall
  exact hall

/-- The pulses at the ports are no part of the invariant. -/
theorem consistent_idle {s : State} (h : Consistent s) : Consistent s.idle := h

theorem consistent_rejectOp {s : State} {c : HostCall} {rest : List HostCall} (hs : s.inputs.stream = c :: rest)
    (h : Consistent s) : Consistent (s.rejectOp c rest) := by
  obtain ⟨hq, hbuf, hb, hv, hl⟩ := h
  exact ⟨hq, buffersCanonical_present hs hbuf, hb, hv, hl⟩

/-- An instruction between `accept` and `retire` keeps the invariant. -/
theorem consistent_ran {s : State} {c : HostCall} {rest : List HostCall} {i : Instr} {r : Res (Option Word)}
    (hs : s.inputs.stream = c :: rest) (he : Effect i (s.accept c rest) r.2) (h : Consistent s) :
    Consistent (respond r).retire := by
  obtain ⟨hq, hbuf, -, hv, hl⟩ := h
  have he := he.respond
  obtain ⟨n, hn⟩ := he.host
  have hcanon : BuffersCanonical (respond r) := by
    unfold BuffersCanonical
    rw [hn]
    exact buffersCanonical_present hs hbuf
  refine consistent_iff.2 ⟨quiet_retire _ (he.quiet hq), ?_, retire_busy _, ?_, live_retire _ (he.live hl)⟩
  · simpa [BuffersCanonical] using hcanon
  · rw [retire_cfg]
    exact he.valid hv

/-! ### The check of a configuration (R340) -/

theorem linkConfigValid_iff (c : LinkConfig) :
    linkConfigValid c = true
      ↔ c.pinSwclk ≠ c.pinSwdio ∧ (c.hasNreset = true → c.pinNreset ≠ c.pinSwclk ∧ c.pinNreset ≠ c.pinSwdio) := by
  cases h : c.hasNreset <;> simp [linkConfigValid, h]

theorem validPageSize_iff (n : Nat) : validPageSize n = true ↔ (∃ k, n = 2 ^ k) ∧ 16 ≤ n := by
  simp only [validPageSize, Bool.and_eq_true, decide_eq_true_eq, beq_iff_eq]
  constructor
  · rintro ⟨h16, hand⟩
    exact ⟨(Nat.and_sub_one_eq_zero_iff_isPowerOfTwo (by omega)).1 hand, h16⟩
  · rintro ⟨hpow, h16⟩
    exact ⟨h16, (Nat.and_sub_one_eq_zero_iff_isPowerOfTwo (by omega)).2 hpow⟩

theorem validOffsets_iff (page : Nat) (offs : List Word) :
    validOffsets page offs = true
      ↔ (∀ o ∈ offs, wordAligned o = true ∧ o.toNat < page) ∧ 0#32 ∈ offs ∧ (∃ o ∈ offs, o.toNat = page - 4)
          ∧ 3 ≤ offs.length := by
  simp [validOffsets, and_assoc]

/-- The block's check is R340's list of constraints. -/
theorem validConfig_iff (p : Params) : validConfig p = true ↔ ConfigConstraints p := by
  simp only [validConfig, flashParamsValid, ctrlApParamsValid, ConfigConstraints, Bool.and_eq_true, decide_eq_true_eq,
    beq_iff_eq, List.all_eq_true, linkConfigValid_iff, validPageSize_iff, validOffsets_iff, Nat.dvd_iff_mod_eq_zero]
  tauto

/-- `linkInit` of a configuration that passes the check (R53, R340). -/
theorem linkInit_valid {p : Params} (h : validConfig p = true) (s : State) :
    linkInit p s = (.ok (), initialised p s) := by
  simp [linkInit, h]

end Sys2Proof.Machine

/-! ## The statements of the state family -/

namespace Sys2Proof.Machine

/-- Settles O57: each way a step can end keeps the invariant. -/
theorem everyStepKeepsConsistent : Obligations.EveryStepKeepsConsistent := by
  intro s t h hstep
  cases stepped_of_step hstep with
  | idle => exact consistent_idle h
  | rejected hs => exact consistent_rejectOp hs h
  | ran hs _ _ he => exact consistent_ran hs he h

/-- Settles O3, by the three ways a step can end. -/
theorem everyStepTakesOneCall : Obligations.EveryStepTakesOneCall := by
  refine ⟨fun s t h => ?_, fun s hs => step_idle hs, fun s hs hb => step_busy hs hb⟩
  cases stepped_of_step h with
  | idle hs => exact ⟨by rw [hs]; exact hs, fun hne => absurd hs hne⟩
  | rejected hs hb => exact ⟨by rw [hs]; rfl, fun _ => ⟨hb, rfl⟩⟩
  | ran hs _ _ he =>
    obtain ⟨n, hn⟩ := he.host
    refine ⟨?_, fun _ => by simp⟩
    rw [retire_inputs, respond_inputs, hn, hs]
    rfl

/-- Settles O4: every arm of `exec` ends in `respond`, and no operation passes `E_NO_TARGET` on. -/
theorem everyInstructionAnswers : Obligations.EveryInstructionAnswers := by
  intro i s
  obtain ⟨r, ran, code, -⟩ := exec_gives i s
  exact ⟨respond r, ran, respond_rspValid r, respond_status_le code⟩

/-- Settles O53, from the effect's clauses on the inputs, the configuration and the trace. -/
theorem onlyLinkInitReconfigures : Obligations.OnlyLinkInitReconfigures := by
  intro i s t hi h
  have heff := effect_of_exec h
  obtain ⟨n, hn⟩ := heff.host
  obtain ⟨hcfg, htrace⟩ := heff.continues hi
  refine ⟨⟨hcfg, ?_, ?_, ?_, ?_, htrace⟩, n, ?_⟩ <;> rw [hn]

/-- Settles O54, from the effect's clauses on the session and the reset pin. -/
theorem sessionMovesOnlyWhereStated : Obligations.SessionMovesOnlyWhereStated := by
  intro i s t h
  have heff := effect_of_exec h
  exact ⟨fun hi => Prod.mk.inj (heff.flagAndCode hi), heff.ctrlApIndex, heff.nreset, heff.busyOp⟩

/-- Settles O55, from the effect's clauses on the sequencers' registers and the ports. -/
theorem workingRegistersAndPortsFrame : Obligations.WorkingRegistersAndPortsFrame := by
  intro i s t h
  have heff := effect_of_exec h
  exact ⟨heff.seqRegs, heff.buffer, heff.report⟩

/-- Settles O56: the effect keeps a parked line parked, and a wire row parks it from any quiet state. -/
theorem lineIsParkedAfterwards : Obligations.LineIsParkedAfterwards :=
  ⟨fun _ _ _ hi hp h => (effect_of_exec h).parked hi hp, fun _ _ _ hi hq h => parked_of_wireRow hi hq h⟩

/-- Settles O1, from what a decoded call does and what `retire` keeps. -/
theorem stepRunsDecodedInstruction : Obligations.StepRunsDecodedInstruction := by
  intro s c rest i hs hb hd
  obtain ⟨hnext, hfault, hrefused⟩ := step_of_decode hs hb hd
  refine ⟨hnext, hfault, hrefused, rfl, rfl, rfl, rfl, rfl, rfl, rfl, fun op hop => ?_, fun t => by simp⟩
  simp [State.accept, hop]

/-- Settles O58, by evaluation of the reset state. -/
theorem resetIsConsistent : Obligations.ResetIsConsistent := by
  have hvalid : validConfig State.reset.cfg = true := by decide
  have hcons : Consistent State.reset :=
    ⟨⟨rfl, rfl, rfl⟩, ⟨reset_buffer_wf, List.forall_mem_nil _⟩, rfl, hvalid, Live.of_disconnected rfl⟩
  exact ⟨hcons, rfl, rfl, rfl, rfl, rfl, rfl, rfl, rfl, rfl, rfl⟩

/-- Settles O48: the constraints pass the check, and what is loaded then is read off. -/
theorem linkInitCompletes : Obligations.LinkInitCompletes := by
  intro a d s hcfg
  have hrun : exec (.linkInit a d) s = .next (respond (.ok none, initialised s.inputs.config s)) := by
    change Host.Outcome.next (respondUnit (linkInit s.inputs.config s)) = _
    rw [linkInit_valid ((validConfig_iff _).2 hcfg)]
    rfl
  exact ⟨_, hrun, ⟨rfl, rfl⟩, rfl, rfl, rfl, rfl, rfl, rfl, rfl, rfl, rfl, rfl, rfl, rfl, rfl, rfl, rfl, rfl, rfl, rfl⟩

end Sys2Proof.Machine

/-! # The memory family (`20_memory.md`): the target as memory, seen through the port and through a buffered write -/

/-! ## A read from the reference target (R84 to R87, R94, R198) -/

namespace Sys2Proof.Machine

/-! ### A read frame, whatever the line shows

`AnsweredByRt0` is about the trace, so the frame's events are needed for any sampled bits, draws included. -/

/-- A parked session that kept all but the line's direction and the lock is as it was (R29, R37). -/
theorem session_eq_of_parked {s t : State} (hs : Parked s) (ht : Parked t)
    (h : t.session = { s.session with driveState := t.session.driveState, lock := t.session.lock }) :
    t.session = s.session := by
  obtain ⟨⟨-, -, slock⟩, sdrive⟩ := hs
  obtain ⟨⟨-, -, tlock⟩, tdrive⟩ := ht
  rw [h, tdrive, tlock, ← sdrive, ← slock]

/-- Reading with the line driven: the turnaround, then as many bits as asked for (R142). -/
theorem readBits_driven_any (n : Nat) {s : State} (hd : s.session.driveState = .driven) :
    ∃ bs, bs.length = n ∧ (readBits n s).1 = ofLsbBits 32 bs
      ∧ (readBits n s).2.trace = s.trace ++ [.t false] ++ rEvents bs
      ∧ (readBits n s).2.pins.swdioOe = false ∧ (readBits n s).2.session.driveState = .released := by
  obtain ⟨bs, k, hlen, -, hrec⟩ := recvAll_any n (s := turnaround false s) rfl
  refine ⟨bs, hlen, ?_⟩
  rw [readBits, ensureReleased_driven hd, hrec]
  simp [turnaround_eq]

/-- Reading with the line released (R142). -/
theorem readBits_released_any (n : Nat) {s : State} (hd : s.session.driveState = .released)
    (hoe : s.pins.swdioOe = false) :
    ∃ bs, bs.length = n ∧ (readBits n s).1 = ofLsbBits 32 bs
      ∧ (readBits n s).2.trace = s.trace ++ rEvents bs
      ∧ (readBits n s).2.pins.swdioOe = false ∧ (readBits n s).2.session.driveState = .released := by
  obtain ⟨bs, k, hlen, -, hrec⟩ := recvAll_any n hoe
  refine ⟨bs, hlen, ?_⟩
  rw [readBits, ensureReleased_released hd, hrec]
  simp [hd, hoe]

/-- The acknowledgement phase shows the code it takes (R192). -/
theorem ackPhase_any {s : State} (hd : s.session.driveState = .driven) :
    (ackPhase s).2.trace = s.trace ++ [.t false] ++ rEvents (lsbBits (ackPhase s).1 3)
      ∧ (ackPhase s).2.pins.swdioOe = false ∧ (ackPhase s).2.session.driveState = .released := by
  obtain ⟨bs, hlen, hval, htrace, hoe, hrel⟩ := readBits_driven_any 3 hd
  have hbits : lsbBits (ackPhase s).1 3 = bs := by
    have hack : (ackPhase s).1 = ofLsbBits 3 bs := by
      rw [show (ackPhase s).1 = (readBits 3 s).1.setWidth 3 from rfl, hval]
      simp [ofLsbBits, BitVec.setWidth_ofNat_of_le]
    rw [hack, lsbBits_ofLsbBits bs hlen]
  rw [hbits]
  exact ⟨htrace, hoe, hrel⟩

/-- A read's data phase shows the word and the parity bit it takes, and its status compares the two (R193). -/
theorem readDataPhase_any {s : State} (hd : s.session.driveState = .released) (hoe : s.pins.swdioOe = false) :
    ∃ par, (readDataPhase s).1 = (if par = parity32 (readDataPhase s).2.1 then .ok else .parity)
      ∧ (readDataPhase s).2.2.trace
          = s.trace ++ rEvents (lsbBits (readDataPhase s).2.1 32) ++ [.r par] ++ [.t true] ++ [.w s.cfg.wire.idleBit] := by
  obtain ⟨ds, dlen, dval, dtrace, doe, drel⟩ := readBits_released_any 32 hd hoe
  obtain ⟨ps, plen, pval, ptrace, -, -⟩ := readBits_released_any 1
    (s := (readBits 32 s).2.mapLinkRegs fun r => { r with rdata := (readBits 32 s).1 }) drel doe
  obtain ⟨par, rfl⟩ := List.length_eq_one_iff.1 plen
  have hpar : (ofLsbBits 32 [par]).getLsbD 0 = par := by rw [getLsbD_ofLsbBits]; simp
  have hword : lsbBits (readBits 32 s).1 32 = ds := by rw [dval, lsbBits_ofLsbBits ds dlen]
  have hcfg := ((wired_readBits 32 s).trans <| (wired_mapLinkRegs _ _).trans (wired_readBits 1
    ((readBits 32 s).2.mapLinkRegs fun r => { r with rdata := (readBits 32 s).1 }))).cfg
  refine ⟨par, ?_, ?_⟩
  · simp only [readDataPhase, pval, hpar]
  · simp only [readDataPhase]
    rw [idleBit_eq rfl, turnaround_eq]
    simp only [mapLinkRegs_trace, mapLinkRegs_cfg, ptrace, dtrace, hword, hcfg, rEvents_cons, rEvents_nil]

/-- The events of a read frame: the head with some acknowledgement; behind an OK the word, its parity bit and the tail (R102). -/
theorem rawTransfer_read_any (addr : Addr4) (isAP : Bool) (w : Word) {s : State} (hp : Parked s) :
    ∃ ack es, (rawTransfer addr isAP true w s).st.trace = s.trace ++ (headEvents addr isAP true ack ++ es)
      ∧ (ack = s.cfg.engine.ackOk → ∃ par,
          (rawTransfer addr isAP true w s).status
              = (if par = parity32 (rawTransfer addr isAP true w s).rdata then .ok else .parity)
            ∧ es = rEvents (lsbBits (rawTransfer addr isAP true w s).rdata 32) ++ [.r par] ++ [.t true]
                ++ [.w s.cfg.wire.idleBit]) := by
  obtain ⟨oe, sh, hreq⟩ := requestPhase_eq addr isAP true (s.setLock true)
  have hturn : entryTurn (s.setLock true) = [] := (entryTurn_setLock true s).trans (entryTurn_parked hp)
  have hdriven : (requestPhase addr isAP true (s.setLock true)).session.driveState = .driven := by rw [hreq]
  obtain ⟨htrace, hoe, hrel⟩ := ackPhase_any hdriven
  have hcfg := ((wired_setLock true s).trans <| (wired_requestPhase addr isAP true _).trans (wired_ackPhase _)).cfg
  refine ⟨(ackPhase (requestPhase addr isAP true (s.setLock true))).1, ?_⟩
  generalize hack : ackPhase (requestPhase addr isAP true (s.setLock true)) = acked at htrace hoe hrel hcfg ⊢
  have hhead : acked.2.trace = s.trace ++ headEvents addr isAP true acked.1 := by
    rw [htrace, hreq, hturn]
    simp [headEvents]
  simp only [rawTransfer, hack]
  by_cases hok : acked.1 = s.cfg.engine.ackOk
  · have hdec : decodeAck s.cfg acked.1 = .ok := by simp [decodeAck, hok]
    obtain ⟨par, hstatus, hdata⟩ := readDataPhase_any hrel hoe
    simp only [hdec, dataPhase, if_true]
    refine ⟨_, ?_, fun _ => ⟨par, hstatus, rfl⟩⟩
    simp only [mapPorts_trace, setLock_trace, hdata, hhead, hcfg, List.append_assoc]
  · obtain ⟨es, hes⟩ := (wired_dataPhase true w (decodeAck s.cfg acked.1) acked.2).trace
    exact ⟨es, by simp [hes, hhead], fun h => absurd h hok⟩

/-- Behind its first transfer the retry loop is a wire operation, so that the transfer stays on the trace (R38, R197). -/
theorem wired_retryLoop_succ (addr : Addr4) (isAP isRead : Bool) (w : Word) (n k : Nat) (s : State) :
    Wired (rawTransfer addr isAP isRead w s).st (retryLoop addr isAP isRead w (n + 1) k s).2 := by
  have hcount := wired_mapLinkRegs (fun l => { l with attempt := BitVec.ofNat 4 (k + 1) })
    (rawTransfer addr isAP isRead w s).st
  have hloop := fun u => (ran_retryLoop addr isAP isRead w n (k + 1) u).wired
  unfold retryLoop
  dsimp only
  split
  · exact hcount
  · exact (hcount.trans (ran_setLast _ _).wired).trans ((ran_delay _ _).wired.trans (hloop _))
  · exact (hcount.trans (ran_setLast _ _).wired).trans ((ran_clearSticky _).wired.trans (hloop _))
  · exact (hcount.trans (ran_setLast _ _).wired).trans ((ran_clearSticky _).wired.trans (hloop _))
  · exact (hcount.trans (ran_setLast _ _).wired).trans (hloop _)

/-! ### The reference target along a read frame (R85, R94) -/

theorem run_append (es fs : List Event) (t : Rt0) : Rt0.run (es ++ fs) t = (Rt0.run es t).bind (Rt0.run fs) := by
  induction es generalizing t with
  | nil => rfl
  | cons e es ih =>
    simp only [List.cons_append, Rt0.run]
    cases t.observe e with
    | none => rfl
    | some t1 => exact ih t1

/-- A target that answered up to `u` answered up to every earlier point. -/
theorem AnsweredByRt0.earlier {t0 : Rt0} {s t u : State} (h : AnsweredByRt0 t0 s u)
    (hst : ∃ es, t.trace = s.trace ++ es) (htu : ∃ es, u.trace = t.trace ++ es) : AnsweredByRt0 t0 s t := by
  obtain ⟨fs, t2, hfs, hrun⟩ := h
  obtain ⟨es, hes⟩ := hst
  obtain ⟨gs, hgs⟩ := htu
  have hsplit : fs = es ++ gs := by
    rw [hgs, hes, List.append_assoc] at hfs
    exact (List.append_cancel_left hfs).symm
  rw [hsplit, run_append] at hrun
  obtain ⟨t1, h1, -⟩ := Option.bind_eq_some_iff.1 hrun
  exact ⟨es, t1, hes, h1⟩

/-- One request bit that is not the last one (R85); fewer than 50 high cycles are no line reset. -/
theorem takeBit_ready {t : Rt0} {got : List Bool} {b : Bool} (hphase : t.phase = .ready got) (hones : t.ones < 50)
    (hstart : got ≠ [] ∨ b = true) (hlen : got.length < 7) :
    t.takeBit b = { t with ones := if b then t.ones + 1 else 0, phase := .ready (got ++ [b]) } := by
  have hidle : ¬ (got = [] ∧ b = false) := by
    rintro ⟨h1, h2⟩
    cases hstart <;> simp_all
  simp [Rt0.takeBit, hphase, hidle, show ¬ 50 ≤ t.ones by omega, show got.length + 1 < 8 by omega]

/-- The last bit of a request that is valid (R85). -/
theorem takeBit_last {t : Rt0} {got : List Bool} {b : Bool} (hphase : t.phase = .ready got) (hones : t.ones < 50)
    (hlen : got.length = 7) (hvalid : validRequest (ofLsbBits 8 (got ++ [b])) = true) :
    t.takeBit b = { t with ones := if b then t.ones + 1 else 0, phase := .turn (ofLsbBits 8 (got ++ [b])) } := by
  have hne : got ≠ [] := by rintro rfl; simp at hlen
  simp [Rt0.takeBit, hphase, hne, show ¬ 50 ≤ t.ones by omega, hlen, hvalid]

/-- The bits that complete a valid request bring the target to its turnaround (R85). -/
theorem run_requestBits (bs : List Bool) {t : Rt0} {got : List Bool} (hphase : t.phase = .ready got)
    (hones : t.ones ≤ got.length) (hlen : got.length + bs.length = 8) (hbs : bs ≠ [])
    (hstart : (got ++ bs).head? = some true) (hvalid : validRequest (ofLsbBits 8 (got ++ bs)) = true) :
    ∃ n, Rt0.run (wEvents bs) t = some { t with ones := n, phase := .turn (ofLsbBits 8 (got ++ bs)) } := by
  induction bs generalizing t got with
  | nil => exact absurd rfl hbs
  | cons b bs ih =>
    have hfew : t.ones < 50 := by simp at hlen; omega
    cases bs with
    | nil =>
      refine ⟨if b then t.ones + 1 else 0, ?_⟩
      simp [Rt0.run, Rt0.observe, takeBit_last hphase hfew (by simpa using hlen) hvalid]
    | cons c cs =>
      simp only [List.length_cons] at hlen
      have hfirst : got ≠ [] ∨ b = true := by
        cases got with
        | nil => exact .inr (by simpa using hstart)
        | cons => exact .inl (by simp)
      have hbit := takeBit_ready hphase hfew hfirst (by omega)
      have happ : got ++ b :: c :: cs = (got ++ [b]) ++ c :: cs := by simp
      obtain ⟨n, hn⟩ := ih (t := t.takeBit b) (got := got ++ [b]) (by rw [hbit])
        (by rw [hbit]; simp only [List.length_append, List.length_singleton]; split <;> omega)
        (by simp; omega) (by simp) (happ ▸ hstart) (happ ▸ hvalid)
      refine ⟨n, ?_⟩
      rw [wEvents_cons, Rt0.run, Rt0.observe, happ]
      simpa [hbit] using hn

/-- Samples that the target accepts are the bits it drives (R85, R94). -/
theorem run_rEvents_answer (ds more bs : List Bool) {t u : Rt0} {req : BitVec 8} {ack : BitVec 3}
    (hphase : t.phase = .answer req ack (ds ++ more)) (hlen : bs.length = ds.length)
    (hrun : Rt0.run (rEvents bs) t = some u) : bs = ds ∧ u = { t with phase := .answer req ack more } := by
  induction ds generalizing t bs with
  | nil =>
    obtain rfl : bs = [] := List.length_eq_zero_iff.1 hlen
    obtain rfl : t = u := by simpa [Rt0.run] using hrun
    exact ⟨rfl, by rw [← show t.phase = .answer req ack more from hphase]⟩
  | cons d ds ih =>
    cases bs with
    | nil => simp at hlen
    | cons b bs =>
      simp only [rEvents_cons, Rt0.run, Rt0.observe, hphase, List.cons_append] at hrun
      by_cases hb : b = d
      · rw [if_pos hb] at hrun
        obtain ⟨hbs, hu⟩ := ih bs (t := { t with phase := .answer req ack (ds ++ more) }) rfl (by simpa using hlen) hrun
        exact ⟨by rw [hb, hbs], hu⟩
      · simp [hb] at hrun

/-- The block's own requests are valid (R85, R104). -/
theorem validRequest_requestByte (addr : Addr4) (isAP isRead : Bool) :
    validRequest (requestByte addr isAP isRead) = true := by
  revert addr isAP isRead
  decide

/-- What a target reads off a Debug-Port read request: two address bits, no access port, a read (R104, R106). -/
theorem requestByte_dpRead_fields (addr : Addr4) :
    reqAddr (requestByte addr false true) = addr &&& 0xC#4 ∧ (requestByte addr false true).getLsbD 1 = false
      ∧ (requestByte addr false true).getLsbD 2 = true := by
  revert addr
  decide

/-- The answer to a Debug-Port read request that is acknowledged OK (R85, R87). -/
theorem takeTurn_dpRead {t : Rt0} {addr : Addr4} (hphase : t.phase = .turn (requestByte addr false true))
    (hacks : t.acks = []) :
    t.takeTurn false
      = { t with
          ones := 0
          phase := .answer (requestByte addr false true) t.par.engine.ackOk
            (lsbBits t.par.engine.ackOk 3
              ++ (lsbBits (t.dpValue (addr &&& 0xC#4)) 32 ++ [parity32 (t.dpValue (addr &&& 0xC#4))])) } := by
  obtain ⟨haddr, hap, hread⟩ := requestByte_dpRead_fields addr
  simp only [Rt0.takeTurn, hphase, Rt0.begin, hacks, haddr, hap, hread, List.headD_nil, List.tail_nil, ne_eq,
    not_true_eq_false, if_false, if_true, Bool.false_eq_true, List.append_assoc]
  rfl

/-- A target in step that accepts the head of a Debug-Port read drove OK there, and the register's value is next (R85, R87). -/
theorem run_head_dpRead {t0 t1 : Rt0} {addr : Addr4} {ack : BitVec 3} (hphase : t0.phase = .ready [])
    (hacks : t0.acks = []) (hones : t0.ones = 0) (hrun : Rt0.run (headEvents addr false true ack) t0 = some t1) :
    ack = t0.par.engine.ackOk
      ∧ t1.phase = .answer (requestByte addr false true) t0.par.engine.ackOk
          (lsbBits (t0.dpValue (addr &&& 0xC#4)) 32 ++ [parity32 (t0.dpValue (addr &&& 0xC#4))]) := by
  have hbits := ofLsbBits_lsbBits (requestByte addr false true)
  obtain ⟨n, hreq⟩ := run_requestBits (lsbBits (requestByte addr false true) 8) hphase (by simp [hones])
    (by simp) (by simp [lsbBits_requestByte]) (by simp [lsbBits_requestByte])
    (by rw [List.nil_append, hbits]; exact validRequest_requestByte addr false true)
  rw [List.nil_append, hbits] at hreq
  have hturn := takeTurn_dpRead (t := { t0 with ones := n, phase := .turn (requestByte addr false true) }) rfl hacks
  rw [headEvents, List.append_assoc, run_append, hreq, Option.bind_some, List.singleton_append, Rt0.run, Rt0.observe,
    hturn] at hrun
  obtain ⟨hack, ht1⟩ := run_rEvents_answer _ _ _ rfl (by simp) hrun
  refine ⟨?_, by rw [ht1]; rfl⟩
  simpa using congrArg (ofLsbBits 3) hack

/-- A Debug-Port read frame answered by a target in step: OK, the addressed register's value, its own parity (R85, R87, R94). -/
theorem rawTransfer_dpRead_rt0 {t0 : Rt0} {s : State} {addr : Addr4} (w : Word) (hpar : t0.par = s.cfg)
    (hphase : t0.phase = .ready []) (hacks : t0.acks = []) (hones : t0.ones = 0) (hp : Parked s)
    (hans : AnsweredByRt0 t0 s (rawTransfer addr false true w s).st) :
    (rawTransfer addr false true w s).status = .ok
      ∧ (rawTransfer addr false true w s).rdata = t0.dpValue (addr &&& 0xC#4)
      ∧ (rawTransfer addr false true w s).st.trace
          = s.trace ++ okReadEvents s.cfg addr false (t0.dpValue (addr &&& 0xC#4))
              (parity32 (t0.dpValue (addr &&& 0xC#4))) := by
  obtain ⟨es, t3, hes, hrun⟩ := hans
  obtain ⟨ack, tail, htrace, hok⟩ := rawTransfer_read_any addr false w hp
  obtain rfl : es = headEvents addr false true ack ++ tail := List.append_cancel_left (hes.symm.trans htrace)
  rw [run_append] at hrun
  obtain ⟨t1, hhead, htail⟩ := Option.bind_eq_some_iff.1 hrun
  obtain ⟨hack, hnext⟩ := run_head_dpRead hphase hacks hones hhead
  rw [hpar] at hack
  obtain ⟨par, hstatus, rfl⟩ := hok hack
  have hbits : rEvents (lsbBits (rawTransfer addr false true w s).rdata 32) ++ [.r par]
      = rEvents (lsbBits (rawTransfer addr false true w s).rdata 32 ++ [par]) := by simp
  rw [List.append_assoc, hbits, run_append] at htail
  obtain ⟨t2, hdata, -⟩ := Option.bind_eq_some_iff.1 htail
  obtain ⟨hshown, -⟩ := run_rEvents_answer _ [] _ (by rw [List.append_nil]; exact hnext) (by simp) hdata
  obtain ⟨hword, hparity⟩ := List.append_inj hshown (by simp)
  have hvalue : (rawTransfer addr false true w s).rdata = t0.dpValue (addr &&& 0xC#4) := by
    simpa using congrArg (ofLsbBits 32) hword
  obtain rfl : par = parity32 (t0.dpValue (addr &&& 0xC#4)) := by simpa using hparity
  refine ⟨by rw [hstatus, hvalue, if_pos rfl], hvalue, ?_⟩
  rw [htrace, hvalue, hack]
  simp [okReadEvents]

/-- The loop of a Debug-Port read that a target in step answers ends with its first frame (R197). -/
theorem retryLoop_dpRead_rt0 {t0 : Rt0} {s : State} {addr : Addr4} (w : Word) (n k : Nat) (hpar : t0.par = s.cfg)
    (hphase : t0.phase = .ready []) (hacks : t0.acks = []) (hones : t0.ones = 0) (hp : Parked s)
    (hans : AnsweredByRt0 t0 s (retryLoop addr false true w (n + 1) k s).2) :
    (retryLoop addr false true w (n + 1) k s).1 = .ok (t0.dpValue (addr &&& 0xC#4))
      ∧ (retryLoop addr false true w (n + 1) k s).2.trace
          = s.trace ++ okReadEvents s.cfg addr false (t0.dpValue (addr &&& 0xC#4))
              (parity32 (t0.dpValue (addr &&& 0xC#4))) := by
  have hfirst := hans.earlier (wired_rawTransfer addr false true w s).trace
    (wired_retryLoop_succ addr false true w n k s).trace
  obtain ⟨hstatus, hvalue, htrace⟩ := rawTransfer_dpRead_rt0 w hpar hphase hacks hones hp hfirst
  simp only [retryLoop, hstatus, hvalue, mapLinkRegs_trace, htrace, and_self]

/-- `dpRead` of a register on a target in step (R198). -/
theorem dpRead_rt0 {t0 : Rt0} {s : State} {addr : Addr4} (hpar : t0.par = s.cfg) (hphase : t0.phase = .ready [])
    (hacks : t0.acks = []) (hones : t0.ones = 0) (hp : Parked s) (hmax : 1 ≤ s.cfg.engine.maxAttempts)
    (hans : AnsweredByRt0 t0 s (dpRead addr s).2) :
    (dpRead addr s).1 = .ok (t0.dpValue (addr &&& 0xC#4))
      ∧ (dpRead addr s).2.trace
          = s.trace ++ okReadEvents s.cfg addr false (t0.dpValue (addr &&& 0xC#4))
              (parity32 (t0.dpValue (addr &&& 0xC#4))) := by
  obtain ⟨n, hn⟩ : ∃ n, s.cfg.engine.maxAttempts = n + 1 := ⟨s.cfg.engine.maxAttempts - 1, by omega⟩
  have hloop : dpRead addr s
      = retryLoop addr false true 0#32 (n + 1) 0 (s.mapLinkRegs fun r => { r with attempt := 0#4 }) := by
    rw [dpRead, retry, hn]
  rw [hloop] at hans ⊢
  exact retryLoop_dpRead_rt0 (s := s.mapLinkRegs fun r => { r with attempt := 0#4 }) 0#32 n 0 hpar hphase hacks hones hp
    hans

theorem exec_dpRead (addr : Addr4) (s : State) : exec (.dpRead addr) s = .next (respondWord (dpRead addr s)) := rfl

/-- Settles O59: the accepted trace holds the target's acknowledgement and value, so the first attempt succeeds. -/
theorem referenceTargetAnswersDpRead : Obligations.ReferenceTargetAnswersDpRead := by
  intro t0 s t addr hpar hphase hacks hones hp hmax hexec hans
  rw [exec_dpRead] at hexec
  obtain rfl := Host.Outcome.next.inj hexec
  have hans' : AnsweredByRt0 t0 s (dpRead addr s).2 := by simpa [AnsweredByRt0, respondWord] using hans
  obtain ⟨hvalue, htrace⟩ := dpRead_rt0 hpar hphase hacks hones hp hmax hans'
  have hran := ran_dpRead addr s
  refine ⟨?_, by rw [respondWord, respond_trace, htrace],
    by rw [respondWord, respond_session, session_eq_of_parked hp (hran.parked hp) hran.wired.session]⟩
  rw [respondWord, hvalue]
  exact ⟨⟨rfl, rfl⟩, rfl⟩

end Sys2Proof.Machine

/-! ## The ready wait (R239, R240) -/

namespace Sys2Proof.Machine

/-! ### Steps between two operations that only show an act -/

/-- From every parked state that the script answers, `g` plays the script. -/
def Shows (acts : List Act) (g : State → State) : Prop :=
  ∀ (s : State) (rest : List (Option Bool)), Parked s → Answers acts rest s → Played acts rest s (g s)

theorem shows_mapSeqRegs (f : SeqRegs → SeqRegs) : Shows [] (State.mapSeqRegs f) := by
  intro s rest hp ha
  obtain rfl : s.inputs.line = rest := by simpa [Answers, LineShows] using ha
  exact (Played.nil hp).mapSeqRegs f

theorem shows_delay (p : DelayName) : Shows [.pause p] (delay p) := by
  intro s rest hp ha
  obtain rfl : s.inputs.line = rest := by simpa [Answers, LineShows, Act.answer] using ha
  exact (Played.nil hp).delay p

/-- A report plays its act, whether or not the host gave a callback (R126). -/
theorem shows_progress (done total : Word) (label : ProgLabel) :
    Shows [.report done total label] (progress done total label) := by
  intro s rest hp ha
  obtain rfl : s.inputs.line = rest := by simpa [Answers, LineShows, Act.answer] using ha
  unfold progress
  split <;> exact ⟨by simp [Act.events], rfl, hp, rfl, rfl⟩

theorem Shows.comp {as bs : List Act} {f g : State → State} (hf : Shows as f) (hg : Shows bs g) :
    Shows (as ++ bs) fun s => g (f s) := by
  intro s rest hp ha
  have h := hf s _ hp ha.split
  exact h.append (hg (f s) rest h.2.2.1 (Answers.after h))

theorem Runs.after {α : Type} {cfg : Params} {as bs : List Act} {g : State → State} {f : State → Res α}
    {v : Except ErrCode α} (hg : Shows as g) (hf : Runs cfg bs f v) : Runs cfg (as ++ bs) (fun s => f (g s)) v := by
  intro s rest hc hp ha
  have h := hg s _ hp ha.split
  obtain ⟨hv, ht⟩ := hf (g s) rest (h.2.2.2.1.trans hc) h.2.2.1 (Answers.after h)
  exact ⟨hv, h.append ht⟩

/-! ### Polls of the ready register -/

theorem readyRunOf_append_singleton (cfg : Params) (ps : List Poll) (p : Poll) :
    readyRunOf cfg (ps ++ [p]) = if readsReady cfg p then readyRunOf cfg ps + 1 else 0 := by
  simp only [readyRunOf, List.reverse_append, List.reverse_singleton, List.singleton_append, List.takeWhile_cons]
  split <;> rfl

/-- One poll ends the wait, or brings it one poll on; `run` ready polls were seen before it (R240). -/
theorem readyPoll_poll {cfg : Params} (hm : 1 ≤ cfg.engine.maxAttempts) (hn : wordAligned cfg.flash.nvmcReady = true)
    {p : Poll} (hp : p.possible cfg) (n run : Nat) {s : State} {rest : List (Option Bool)} (hc : s.cfg = cfg)
    (hs : Parked s) (ha : Answers (readyPollActs cfg p) rest s) :
    ∃ t, Played (readyPollActs cfg p) rest s t
      ∧ readyPoll (n + 1) run s
          = (let seen := if readsReady cfg p then run + 1 else 0
             if seen = cfg.flash.readyConsecutive then (.ok (), t)
             else readyPoll n seen (delayIfMore n .readyPoll (setPollsLeft n t))) := by
  obtain ⟨v, hrun, hvalue⟩ := runs_readyPoll hm hn p hp
  obtain ⟨hv, hplayed⟩ := hrun s rest hc hs ha
  have hcfg : (memReadWord cfg.flash.nvmcReady s).2.cfg = cfg := hplayed.2.2.2.1.trans hc
  refine ⟨_, hplayed.mapSeqRegs fun x =>
    { x with readyRun := BitVec.ofNat 2 (if readsReady cfg p then run + 1 else 0) }, ?_⟩
  cases v with
  | ok w => simp only [readyPoll, hc, hv, hcfg, readsReady, ← hvalue, Except.toOption, mapSeqRegs_cfg]
  | error c => simp only [readyPoll, hc, hv, hcfg, readsReady, ← hvalue, Except.toOption, mapSeqRegs_cfg]

/-- Polls behind those of `before` that settle with the last of them (R240). -/
theorem runs_readyPolls {cfg : Params} (hm : 1 ≤ cfg.engine.maxAttempts) (hn : wordAligned cfg.flash.nvmcReady = true)
    (ps before : List Poll) (n : Nat) (hne : ps ≠ []) (hlen : ps.length ≤ n) (hps : ∀ p ∈ ps, p.possible cfg)
    (hend : readyRunOf cfg (before ++ ps) = cfg.flash.readyConsecutive)
    (hnot : ∀ j < ps.length, j ≠ 0 → readyRunOf cfg (before ++ ps.take j) ≠ cfg.flash.readyConsecutive) :
    Runs cfg (readyPolls cfg ps) (readyPoll n (readyRunOf cfg before)) (.ok ()) := by
  induction ps generalizing before n with
  | nil => exact absurd rfl hne
  | cons p ps ih =>
    obtain ⟨n, rfl⟩ : ∃ k, n = k + 1 := ⟨n - 1, by simp at hlen; omega⟩
    have hstep := readyRunOf_append_singleton cfg before p
    cases ps with
    | nil =>
      intro s rest hc hs ha
      obtain ⟨t, hplayed, heq⟩ := readyPoll_poll hm hn (hps p (by simp)) n (readyRunOf cfg before) hc hs ha
      rw [heq, ← hstep, hend]
      exact ⟨by simp, by simpa [readyPolls] using hplayed⟩
    | cons q qs =>
      have hgoing : readyRunOf cfg (before ++ [p]) ≠ cfg.flash.readyConsecutive := hnot 1 (by simp) (by simp)
      have hmore : n ≠ 0 := by simp at hlen; omega
      have hrest := ih (before ++ [p]) n (by simp) (by simpa using hlen) (fun r hr => hps r (by simp [hr]))
        (by simpa using hend) fun j hj _ => by simpa using hnot (j + 1) (by simpa using hj) (by simp)
      have hnext := hrest.after ((shows_mapSeqRegs fun r => { r with pollsLeft := BitVec.ofNat 32 n }).comp
        (shows_delay .readyPoll))
      intro s rest hc hs ha
      obtain ⟨t, hplayed, heq⟩ := readyPoll_poll hm hn (hps p (by simp)) n (readyRunOf cfg before) hc hs
        (Answers.split (bs := .pause .readyPoll :: readyPolls cfg (q :: qs)) ha)
      have hct := hplayed.2.2.2.1
      obtain ⟨hv, hu⟩ := hnext t rest (hct.trans hc) hplayed.2.2.1 (by simpa using Answers.after hplayed)
      rw [heq, ← hstep]
      simp only [hgoing, if_false, delayIfMore, hmore]
      exact ⟨hv, hplayed.append hu⟩

/-- A ready wait whose polls settle completes (R239, R240). -/
theorem runs_waitControllerReady {cfg : Params} (hm : 1 ≤ cfg.engine.maxAttempts)
    (hn : wordAligned cfg.flash.nvmcReady = true) (hr : 1 ≤ cfg.flash.readyConsecutive) {timeoutMs : Nat}
    {ps : List Poll} (h : Settles cfg timeoutMs ps) :
    Runs cfg (readyPolls cfg ps) (waitControllerReady timeoutMs) (.ok ()) := by
  obtain ⟨⟨hlen, hend, hnot⟩, hps⟩ := h
  have hne : ps ≠ [] := by
    rintro rfl
    have : readyRunOf cfg [] = 0 := rfl
    omega
  have hpolls := runs_readyPolls hm hn ps [] (polls cfg timeoutMs) hne hlen hps hend fun j hj _ => hnot j hj
  exact (hpolls.after ((shows_mapSeqRegs fun r => { r with pollsLeft := BitVec.ofNat 32 (polls cfg timeoutMs) }).comp
    (shows_mapSeqRegs fun r => { r with readyRun := 0#2 }))).congr fun s hc => by
      rw [waitControllerReady, hc]
      rfl

/-- `R` is respected by what a ready wait is made of: `POLLS_LEFT` and `READY_RUN` are its only sequencer registers (R36, R240). -/
structure WaitStable (R : State → State → Prop) : Prop extends PollStable R where
  run : ∀ b s, R s (s.mapSeqRegs fun r => { r with readyRun := b })

theorem WaitStable.ends_readyPoll {R : State → State → Prop} (hR : WaitStable R) (n run : Nat) (s : State) :
    Ends R s (readyPoll n run s) := by
  induction n generalizing run s with
  | zero => exact hR.ends_error (by decide) s
  | succ n ih =>
    have hread := (hR.ends_memReadWord s.cfg.flash.nvmcReady s).rel
    unfold readyPoll
    exact .ite ((hR.ends_ok _ _).after hR.toEngineStable (hR.trans hread (hR.run _ _)))
      ((ih _ _).after hR.toEngineStable <| hR.trans hread <| hR.trans (hR.run _ _) <|
        hR.trans (hR.polls _ _) (hR.rel_delayIfMore _ _ _))

theorem WaitStable.rel_waitControllerReady {R : State → State → Prop} (hR : WaitStable R) (timeoutMs : Nat) (s : State) :
    R s (waitControllerReady timeoutMs s).2 :=
  hR.trans (hR.polls _ s) (hR.trans (hR.run _ _) (hR.ends_readyPoll _ _ _).rel)

end Sys2Proof.Machine

/-! ## The words of a span (R66, R245) -/

namespace Sys2Proof.Machine

/-! ### Byte lanes -/

theorem getLsbD_byteLane (w : Word) (k i : Nat) : (byteLane w k).getLsbD i = (decide (i < 8) && w.getLsbD (8 * k + i)) := by
  simp [byteLane]

/-- A lane after one lane of the word was set (R66, R245). -/
theorem byteLane_setLane (w : Word) (b : Byte) {j k : Nat} (hj : j < 4) :
    byteLane (setLane w k b) j = if j = k then b else byteLane w j := by
  have hmask : ∀ n, (0xFF#32).getLsbD n = decide (n < 8) := fun n => by
    rw [show (0xFF#32) = (BitVec.allOnes 8).setWidth 32 by decide]
    simp only [BitVec.getLsbD_setWidth, BitVec.getLsbD_allOnes]
    by_cases h : n < 8 <;> simp [h]
    omega
  apply BitVec.eq_of_getLsbD_eq
  intro i hi
  have hlow : 8 * j + i < 32 := by omega
  simp only [getLsbD_byteLane, setLane, BitVec.getLsbD_or, BitVec.getLsbD_and, BitVec.getLsbD_not,
    BitVec.getLsbD_shiftLeft, BitVec.getLsbD_setWidth, hmask, hi, hlow, decide_true, Bool.true_and]
  split
  next h =>
    subst h
    simp [show 8 * j + i - 8 * j = i by omega, hi, show i < 32 by omega]
  next h =>
    rw [getLsbD_byteLane]
    rcases Nat.lt_or_gt_of_ne h with hlt | hgt
    · simp [show 8 * j + i < 8 * k by omega, hi]
    · simp [show ¬ 8 * j + i < 8 * k by omega, show ¬ 8 * j + i - 8 * k < 8 by omega, hi,
        BitVec.getLsbD_of_ge b (8 * j + i - 8 * k) (by omega)]

/-- A word is its four lanes, lane 0 lowest (R66). -/
theorem append_byteLanes (w : Word) : (byteLane w 3 ++ byteLane w 2 ++ byteLane w 1 ++ byteLane w 0 : Word) = w := by
  apply BitVec.eq_of_getLsbD_eq
  intro i hi
  simp only [BitVec.getLsbD_append, getLsbD_byteLane]
  by_cases h0 : i < 8
  · simp [h0]
  · by_cases h1 : i - 8 < 8
    · simp [h0, h1, show 8 + (i - 8) = i by omega]
    · by_cases h2 : i - 8 - 8 < 8
      · simp [h0, h1, h2, show 16 + (i - 8 - 8) = i by omega]
      · simp [h0, h1, h2, show i - 8 - 8 - 8 < 8 by omega, show 24 + (i - 8 - 8 - 8) = i by omega]

/-- A word with the span's lanes is the span's word (R245). -/
theorem eq_spanWord {address length lead w : Word} {m : Memory} {j : Nat}
    (h : ∀ k < 4, byteLane w k = spanLane address length lead m j k) : w = spanWord address length lead m j := by
  rw [spanWord, ← h 0 (by omega), ← h 1 (by omega), ← h 2 (by omega), ← h 3 (by omega), append_byteLanes]

/-- Every lane of the erased fill is all ones (R245). -/
theorem byteLane_allOnes {k : Nat} (hk : k < 4) : byteLane 0xFFFFFFFF#32 k = 0xFF#8 := by
  interval_cases k <;> rfl

/-! ### Loading `WORD` from the buffer -/

/-- From `s` to `t` only `WORD`, `IDX` and the buffer port moved, `IDX` by `taken` bytes (R27, R36). -/
structure Loaded (taken : Nat) (s t : State) : Prop where
  rest : t = { s with seqRegs := t.seqRegs, ports := t.ports }
  regs : t.seqRegs = { s.seqRegs with word := t.seqRegs.word, idx := s.seqRegs.idx + BitVec.ofNat 32 taken }

theorem Loaded.refl (s : State) : Loaded 0 s s := ⟨rfl, by simp⟩

theorem Loaded.trans {a b : Nat} {s t u : State} (h : Loaded a s t) (k : Loaded b t u) : Loaded (a + b) s u := by
  refine ⟨?_, ?_⟩
  · rw [k.rest, h.rest]
  · rw [k.regs, h.regs]
    simp [BitVec.ofNat_add, BitVec.add_assoc]

/-- One byte of the buffer taken into lane `k`, `IDX` moved by `d` (R245). -/
theorem loaded_lane (i k d : Nat) (s : State) :
    Loaded d s ((readBuf i s).2.mapSeqRegs fun r =>
      { r with word := setLane r.word k (readBuf i s).1, idx := r.idx + BitVec.ofNat 32 d }) :=
  ⟨rfl, rfl⟩

theorem Loaded.buffer {a : Nat} {s t : State} (h : Loaded a s t) : t.inputs.buffer = s.inputs.buffer := by rw [h.rest]

/-- A load shows nothing on the wire. -/
theorem Shows.of_loaded {g : State → State} {d : State → Nat} (h : ∀ s, Loaded (d s) s (g s)) : Shows [] g := by
  intro s rest hp ha
  obtain rfl : s.inputs.line = rest := by simpa [Answers, LineShows] using ha
  rw [(h s).rest]
  exact Played.nil hp

theorem loadLanes_loaded (n k : Nat) (s : State) : Loaded 0 s (loadLanes n k s) := by
  induction n generalizing k s with
  | zero => exact Loaded.refl s
  | succ n ih =>
    have h := loaded_lane (s.seqRegs.idx.toNat + k) k 0 s
    simp only [BitVec.add_zero] at h
    exact h.trans (ih (k + 1) _)

/-- The lanes loaded are the buffer bytes from `IDX` on, the others are as they were (R245). -/
theorem byteLane_loadLanes (n k : Nat) (s : State) {j : Nat} (hj : j < 4) :
    byteLane (loadLanes n k s).seqRegs.word j
      = if k ≤ j ∧ j < k + n then s.inputs.buffer.read (BitVec.ofNat 32 (s.seqRegs.idx.toNat + j))
        else byteLane s.seqRegs.word j := by
  induction n generalizing k s with
  | zero => simp [loadLanes, show ¬ (k ≤ j ∧ j < k) by omega]
  | succ n ih =>
    rw [loadLanes, ih]
    simp only [readBuf_eq, mapSeqRegs_inputs, mapSeqRegs_seqRegs, byteLane_setLane _ _ hj]
    by_cases hk : j = k
    · simp [hk]
    · simp only [hk, if_false, show k + 1 ≤ j ∧ j < k + 1 + n ↔ k ≤ j ∧ j < k + (n + 1) by omega]

/-- How many bytes `spliceBytes` takes. -/
abbrev spliceTaken (length : Word) (n : Nat) (s : State) : Nat := min n (length.toNat - s.seqRegs.idx.toNat)

/-- The count of the bytes behind the first one. -/
theorem spliceTaken_succ {length : Word} {n : Nat} {s t : State} (h : s.seqRegs.idx.toNat < length.toNat)
    (ht : t.seqRegs.idx = s.seqRegs.idx + 1#32) :
    t.seqRegs.idx.toNat = s.seqRegs.idx.toNat + 1 ∧ spliceTaken length (n + 1) s = 1 + spliceTaken length n t := by
  have hidx : t.seqRegs.idx.toNat = s.seqRegs.idx.toNat + 1 := by
    rw [ht, BitVec.toNat_add]
    have := length.isLt
    simp only [BitVec.toNat_ofNat]
    omega
  exact ⟨hidx, by simp only [spliceTaken, hidx]; omega⟩

theorem spliceBytes_loaded (length : Word) (n k : Nat) (s : State) :
    Loaded (spliceTaken length n s) s (spliceBytes length n k s) := by
  induction n generalizing k s with
  | zero => simpa [spliceBytes, spliceTaken] using Loaded.refl s
  | succ n ih =>
    rw [spliceBytes]
    split
    next h =>
      have hstep := loaded_lane s.seqRegs.idx.toNat k 1 s
      rw [(spliceTaken_succ h (congrArg SeqRegs.idx hstep.regs)).2]
      exact hstep.trans (ih (k + 1) _)
    next h => simpa [spliceTaken, show length.toNat - s.seqRegs.idx.toNat = 0 by omega] using Loaded.refl s

/-- The lanes spliced are the buffer bytes from `IDX` on, the others are as they were (R245). -/
theorem byteLane_spliceBytes (length : Word) (n k : Nat) (s : State) {j : Nat} (hj : j < 4) :
    byteLane (spliceBytes length n k s).seqRegs.word j
      = if k ≤ j ∧ j < k + spliceTaken length n s then
          s.inputs.buffer.read (BitVec.ofNat 32 (s.seqRegs.idx.toNat + (j - k)))
        else byteLane s.seqRegs.word j := by
  induction n generalizing k s with
  | zero => simp [spliceBytes, spliceTaken, show ¬ (k ≤ j ∧ j < k) by omega]
  | succ n ih =>
    rw [spliceBytes]
    split
    next h =>
      have hstep := loaded_lane s.seqRegs.idx.toNat k 1 s
      obtain ⟨hidx, htaken⟩ := spliceTaken_succ (n := n) h (congrArg SeqRegs.idx hstep.regs)
      rw [ih, htaken, hstep.buffer, hidx]
      by_cases hk : j = k
      · subst hk
        simp [readBuf_eq, byteLane_setLane _ _ hj]
      · simp only [mapSeqRegs_seqRegs, byteLane_setLane _ _ hj, hk, if_false]
        generalize hT : spliceTaken length n _ = taken
        by_cases hin : k + 1 ≤ j ∧ j < k + 1 + taken
        · rw [if_pos hin, if_pos (by omega), Nat.add_assoc, show 1 + (j - (k + 1)) = j - k by omega]
        · rw [if_neg hin, if_neg (by omega), readBuf_eq]
    next h => simp [spliceTaken, show length.toNat - s.seqRegs.idx.toNat = 0 by omega, show ¬ (k ≤ j ∧ j < k) by omega]

end Sys2Proof.Machine

/-! ## A buffered write (R245) -/

namespace Sys2Proof.Machine

/-! ### Scripts with a condition on the state before and behind -/

/-- From every parked state of configuration `cfg` in `P` that the script answers, `f` completes, plays the script and leaves a
state in `Q`: `Runs` of a success, with what the next operation needs of the working registers. -/
def Plays {α : Type} (cfg : Params) (P : State → Prop) (acts : List Act) (f : State → Res α) (Q : State → Prop) : Prop :=
  ∀ (s : State) (rest : List (Option Bool)), s.cfg = cfg → Parked s → P s → Answers acts rest s →
    ∃ a t, f s = (.ok a, t) ∧ Played acts rest s t ∧ Q t

section Rules

variable {α β : Type} {cfg : Params} {P P' Q Q' : State → Prop} {as bs : List Act} {f : State → Res α}

theorem tryThen_assoc {γ : Type} (r : Res α) (k : α → State → Res β) (l : β → State → Res γ) :
    Machine.tryThen (Machine.tryThen r k) l = Machine.tryThen r fun a s => Machine.tryThen (k a s) l := by
  obtain ⟨c | a, s⟩ := r <;> rfl

theorem Runs.plays {a : α} (h : Runs cfg as f (.ok a)) (hQ : ∀ s, P s → Q (f s).2) : Plays cfg P as f Q := by
  intro s rest hc hp hP ha
  obtain ⟨hv, ht⟩ := h s rest hc hp ha
  exact ⟨a, (f s).2, Prod.ext hv rfl, ht, hQ s hP⟩

theorem Plays.tryThen {k : State → Res β} (h : Plays cfg P as f Q) (hk : Plays cfg Q bs k Q') :
    Plays cfg P (as ++ bs) (fun s => Machine.tryThen (f s) fun _ => k) Q' := by
  intro s rest hc hp hP ha
  obtain ⟨a, t, heq, ht, hQ⟩ := h s _ hc hp hP ha.split
  obtain ⟨b, u, heq', hu, hQ'⟩ := hk t rest (ht.2.2.2.1.trans hc) ht.2.2.1 hQ (Answers.after ht)
  exact ⟨b, u, by simp only [heq, tryThen_ok, heq'], ht.append hu, hQ'⟩

theorem Runs.tryThen_plays {k : α → State → Res β} {a : α} (h : Runs cfg as f (.ok a)) (hQ : ∀ s, P s → Q (f s).2)
    (hk : Plays cfg Q bs (k a) Q') : Plays cfg P (as ++ bs) (fun s => Machine.tryThen (f s) k) Q' := by
  intro s rest hc hp hP ha
  obtain ⟨hv, ht⟩ := h s _ hc hp ha.split
  obtain ⟨b, u, heq, hu, hQ'⟩ := hk (f s).2 rest (ht.2.2.2.1.trans hc) ht.2.2.1 (hQ s hP) (Answers.after ht)
  have hf : f s = (.ok a, (f s).2) := Prod.ext hv rfl
  exact ⟨b, u, by dsimp only; rw [hf, tryThen_ok, heq], ht.append hu, hQ'⟩

theorem Plays.after {g : State → State} (hg : Shows as g) (hP : ∀ s, P s → P' (g s)) (h : Plays cfg P' bs f Q) :
    Plays cfg P (as ++ bs) (fun s => f (g s)) Q := by
  intro s rest hc hp hPs ha
  have hs := hg s _ hp ha.split
  obtain ⟨a, t, heq, ht, hQ⟩ := h (g s) rest (hs.2.2.2.1.trans hc) hs.2.2.1 (hP s hPs) (Answers.after hs)
  exact ⟨a, t, heq, hs.append ht, hQ⟩

theorem Plays.ok (a : α) (h : ∀ s, P s → Q s) : Plays cfg P [] (fun s => (.ok a, s)) Q :=
  (Runs.pure cfg (.ok a)).plays h

theorem Plays.congr {g : State → Res α} (h : Plays cfg P as f Q) (hfg : ∀ s, s.cfg = cfg → P s → g s = f s) :
    Plays cfg P as g Q := by
  intro s rest hc hp hP ha
  rw [hfg s hc hP]
  exact h s rest hc hp hP ha

theorem Plays.mono (h : Plays cfg P as f Q) (hP : ∀ s, P' s → P s) (hQ : ∀ s, Q s → Q' s) : Plays cfg P' as f Q' := by
  intro s rest hc hp hPs ha
  obtain ⟨a, t, heq, ht, hQs⟩ := h s rest hc hp (hP s hPs) ha
  exact ⟨a, t, heq, ht, hQ t hQs⟩

theorem Plays.of_exists {ι : Type} {P : ι → State → Prop} (h : ∀ i, Plays cfg (P i) as f Q) :
    Plays cfg (fun s => ∃ i, P i s) as f Q :=
  fun s rest hc hp ⟨i, hP⟩ ha => h i s rest hc hp hP ha

end Rules

/-! ### Where the writer stands -/

/-- The writer of the buffer `m` stands at the target address `cur` with `idx` bytes taken, `since` words since the last ready
wait and `reported` bytes at the last report (R36, R245). -/
structure WriterAt (m : Memory) (cur : Word) (idx since reported : Nat) (s : State) : Prop where
  buffer : s.inputs.buffer = m
  cur : s.seqRegs.cur = cur
  idx : s.seqRegs.idx.toNat = idx
  since : s.seqRegs.sincePoll.toNat = since
  reported : s.seqRegs.reported.toNat = reported

/-- The writer's place is kept. -/
def KeepsWriter (s t : State) : Prop :=
  ∀ ⦃m cur idx since reported⦄, WriterAt m cur idx since reported s → WriterAt m cur idx since reported t

theorem Wired.buffer {s t : State} (h : Wired s t) : t.inputs.buffer = s.inputs.buffer := by
  obtain ⟨n, hn⟩ := h.host
  rw [hn]

theorem Wired.keepsWriter {s t : State} (h : Wired s t) : KeepsWriter s t := by
  intro m cur idx since reported hs
  exact ⟨h.buffer.trans hs.buffer, by rw [h.seqRegs]; exact hs.cur, by rw [h.seqRegs]; exact hs.idx,
    by rw [h.seqRegs]; exact hs.since, by rw [h.seqRegs]; exact hs.reported⟩

theorem KeepsWriter.waitStable : WaitStable KeepsWriter where
  toEngineStable := .of_wired (fun _ _ _ _ _ _ => id) (fun h k _ _ _ _ _ hs => k (h hs)) fun _ _ h => h.keepsWriter
  polls _ _ _ _ _ _ _ hs := ⟨hs.buffer, hs.cur, hs.idx, hs.since, hs.reported⟩
  run _ _ _ _ _ _ _ hs := ⟨hs.buffer, hs.cur, hs.idx, hs.since, hs.reported⟩

theorem WriterAt.progress {m : Memory} {cur : Word} {idx since reported : Nat} {s : State}
    (h : WriterAt m cur idx since reported s) (d t : Word) (l : ProgLabel) :
    WriterAt m cur idx since reported (progress d t l s) := by
  unfold Machine.progress
  split <;> exact ⟨h.buffer, h.cur, h.idx, h.since, h.reported⟩

/-- A load moves the writer by the bytes it takes. -/
theorem WriterAt.loaded {m : Memory} {cur : Word} {idx since reported taken : Nat} {s t : State}
    (h : WriterAt m cur idx since reported s) (hl : Loaded taken s t) (hfit : idx + taken < 2 ^ 32) :
    WriterAt m cur (idx + taken) since reported t := by
  refine ⟨hl.buffer.trans h.buffer, ?_, ?_, ?_, ?_⟩ <;> rw [hl.regs]
  · exact h.cur
  · rw [BitVec.toNat_add, h.idx, BitVec.toNat_ofNat]
    omega
  · exact h.since
  · exact h.reported

/-! ### Behind a word -/

/-- The first part of `afterWord`: the word counted, and the ready wait that is due (R245). -/
def countWord (s : State) : Res Unit :=
  let counted := s.mapSeqRegs fun r => { r with sincePoll := r.sincePoll + 1#32 }
  if counted.seqRegs.sincePoll.toNat = counted.cfg.flash.writePollIntervalWords then
    let zeroed := counted.mapSeqRegs fun r => { r with sincePoll := 0#32 }
    waitControllerReady zeroed.cfg.flash.writeWordTimeoutMs zeroed
  else (.ok (), counted)

/-- The second part of `afterWord`: the report that is due (R245). -/
def reportDue (length : Word) (s : State) : Res Unit :=
  if s.cfg.flash.progressIntervalBytes ≤ s.seqRegs.idx.toNat - s.seqRegs.reported.toNat then
    let noted := s.mapSeqRegs fun r => { r with reported := r.idx }
    (.ok (), progress noted.seqRegs.idx length .write noted)
  else (.ok (), s)

theorem afterWord_eq (length : Word) (s : State) :
    afterWord length s = tryThen (countWord s) fun _ => reportDue length := rfl

/-- The ready wait of a script behind a word. -/
def waitActs (cfg : Params) (ps : List Poll) (since : Nat) : List Act :=
  if since + 1 == cfg.flash.writePollIntervalWords then readyPolls cfg ps else []

/-- The words since the last wait, one word on. -/
def nextSince (cfg : Params) (since : Nat) : Nat :=
  if since + 1 == cfg.flash.writePollIntervalWords then 0 else since + 1

/-- The report of a script behind a word, `done` bytes written. -/
def reportActs (cfg : Params) (length : Word) (done reported : Nat) : List Act :=
  if decide (cfg.flash.progressIntervalBytes ≤ done - reported) then [.report (BitVec.ofNat 32 done) length .write] else []

/-- The bytes at the last report, `done` bytes written. -/
def nextReported (cfg : Params) (done reported : Nat) : Nat :=
  if decide (cfg.flash.progressIntervalBytes ≤ done - reported) then done else reported

theorem nextSince_le (cfg : Params) (since : Nat) : nextSince cfg since ≤ since + 1 := by
  unfold nextSince
  split <;> omega

/-- The script of the span's j-th word. -/
def wordActs (cfg : Params) (address length lead : Word) (m : Memory) (ps : List Poll) (j since reported : Nat) : List Act :=
  memWriteActs cfg (spanAddr address j) (spanWord address length lead m j)
    ++ (waitActs cfg ps since ++ reportActs cfg length (spanDone address length j) reported)

/-- A script of one word more, word by word. -/
theorem spanActs_succ (cfg : Params) (address length lead : Word) (m : Memory) (ps : List Poll) (n j since reported : Nat) :
    spanActs cfg address length lead m ps (n + 1) j since reported
      = (let rest := spanActs cfg address length lead m ps n (j + 1) (nextSince cfg since)
           (nextReported cfg (spanDone address length j) reported)
         (wordActs cfg address length lead m ps j since reported ++ rest.1, rest.2)) := by
  rw [wordActs, ← List.append_assoc]
  rfl

/-- A script in two parts. -/
theorem spanActs_add (cfg : Params) (address length lead : Word) (m : Memory) (ps : List Poll)
    (a b j since reported : Nat) :
    spanActs cfg address length lead m ps (a + b) j since reported
      = (let first := spanActs cfg address length lead m ps a j since reported
         let rest := spanActs cfg address length lead m ps b (j + a) first.2.1 first.2.2
         (first.1 ++ rest.1, rest.2)) := by
  induction a generalizing j since reported with
  | zero => simp [spanActs]
  | succ a ih =>
    rw [show a + 1 + b = a + b + 1 by omega]
    simp only [spanActs_succ, ih, show j + (a + 1) = j + 1 + a by omega, List.append_assoc]

/-- The words since the last wait are no more than the words. -/
theorem spanActs_since_le (cfg : Params) (address length lead : Word) (m : Memory) (ps : List Poll)
    (n j since reported : Nat) : (spanActs cfg address length lead m ps n j since reported).2.1 ≤ since + n := by
  induction n generalizing j since reported with
  | zero => exact Nat.le_refl _
  | succ n ih =>
    have := ih (j + 1) (nextSince cfg since) (nextReported cfg (spanDone address length j) reported)
    have := nextSince_le cfg since
    rw [spanActs_succ]
    dsimp only
    omega

section Writer

variable {cfg : Params} {ps : List Poll} {m : Memory} {cur : Word} {idx since reported : Nat}

/-- Every ready wait of the write is answered by `ps`. -/
def WriteWaits (cfg : Params) (ps : List Poll) : Prop :=
  Runs cfg (readyPolls cfg ps) (waitControllerReady cfg.flash.writeWordTimeoutMs) (.ok ())

theorem WriteWaits.plays (hw : WriteWaits cfg ps) :
    Plays cfg (WriterAt m cur idx since reported) (readyPolls cfg ps) (waitControllerReady cfg.flash.writeWordTimeoutMs)
      (WriterAt m cur idx since reported) :=
  Runs.plays hw fun s hs => KeepsWriter.waitStable.rel_waitControllerReady _ s hs

theorem plays_countWord (hw : WriteWaits cfg ps) (hfit : since + 1 < 2 ^ 32) :
    Plays cfg (WriterAt m cur idx since reported) (waitActs cfg ps since) countWord
      (WriterAt m cur idx (nextSince cfg since) reported) := by
  have hcount : ∀ s, WriterAt m cur idx since reported s →
      WriterAt m cur idx (since + 1) reported (s.mapSeqRegs fun r => { r with sincePoll := r.sincePoll + 1#32 }) := by
    refine fun s h => ⟨h.buffer, h.cur, h.idx, ?_, h.reported⟩
    rw [mapSeqRegs_seqRegs, BitVec.toNat_add, h.since, BitVec.toNat_ofNat]
    omega
  unfold waitActs nextSince
  by_cases hdue : since + 1 = cfg.flash.writePollIntervalWords
  · simp only [beq_iff_eq, hdue, if_true]
    refine (hw.plays.after (as := [])
      ((shows_mapSeqRegs fun r => { r with sincePoll := r.sincePoll + 1#32 }).comp
        (shows_mapSeqRegs fun r => { r with sincePoll := 0#32 }))
      fun s h => ⟨h.buffer, h.cur, h.idx, rfl, h.reported⟩).congr fun s hc h => ?_
    rw [countWord]
    simp only [(hcount s h).since, mapSeqRegs_cfg, hc, hdue, if_true]
  · simp only [beq_iff_eq, hdue, if_false]
    refine ((Plays.ok () fun _ => id).after (shows_mapSeqRegs _) hcount).congr fun s hc h => ?_
    rw [countWord]
    simp only [(hcount s h).since, mapSeqRegs_cfg, hc, hdue, if_false]

theorem plays_reportDue (length : Word) :
    Plays cfg (WriterAt m cur idx since reported) (reportActs cfg length idx reported) (reportDue length)
      (WriterAt m cur idx since (nextReported cfg idx reported)) := by
  unfold reportActs nextReported
  by_cases hdue : cfg.flash.progressIntervalBytes ≤ idx - reported
  · simp only [hdue, decide_true, if_true]
    refine ((Plays.ok () fun _ => id).after
      ((shows_mapSeqRegs fun r => { r with reported := r.idx }).comp (shows_progress (BitVec.ofNat 32 idx) length .write))
      fun s h => ?_).congr fun s hc h => ?_
    · have hnoted : WriterAt m cur idx since idx (s.mapSeqRegs fun r => { r with reported := r.idx }) :=
        ⟨h.buffer, h.cur, h.idx, h.since, h.idx⟩
      exact hnoted.progress _ _ _
    · rw [reportDue, h.idx, h.reported, hc, if_pos hdue, ← h.idx, BitVec.ofNat_toNat, BitVec.setWidth_eq]
      rfl
  · simp only [hdue, decide_false, Bool.false_eq_true, if_false]
    refine (Plays.ok () fun _ => id).congr fun s hc h => ?_
    rw [reportDue, h.idx, h.reported, hc, if_neg hdue]

theorem plays_afterWord (hw : WriteWaits cfg ps) (length : Word) (hfit : since + 1 < 2 ^ 32) :
    Plays cfg (WriterAt m cur idx since reported) (waitActs cfg ps since ++ reportActs cfg length idx reported)
      (afterWord length) (WriterAt m cur idx (nextSince cfg since) (nextReported cfg idx reported)) :=
  ((plays_countWord hw hfit).tryThen (plays_reportDue length)).congr fun s _ _ => afterWord_eq length s

end Writer

end Sys2Proof.Machine

/-! ## The words of a buffered write (R245) -/

namespace Sys2Proof.Machine

/-! ### Addresses and counts of a span -/

/-- The buffer bytes written before the span's j-th word is. -/
def spanBefore (address length : Word) (j : Nat) : Nat := min (4 * j - (address.setWidth 2).toNat) length.toNat

theorem spanBefore_le (address length : Word) (j : Nat) : spanBefore address length j ≤ length.toNat := Nat.min_le_right _ _

theorem spanBefore_lt (address length : Word) (j : Nat) : spanBefore address length j < 2 ^ 32 :=
  Nat.lt_of_le_of_lt (spanBefore_le address length j) length.isLt

theorem getLsbD_three (i : Nat) : (3#32).getLsbD i = decide (i < 2) := by
  rw [show (3#32) = (BitVec.allOnes 2).setWidth 32 by decide]
  simp only [BitVec.getLsbD_setWidth, BitVec.getLsbD_allOnes]
  by_cases h : i < 2 <;> simp [h]
  omega

theorem alignDown_of_aligned {address : Word} (h : address.setWidth 2 = 0#2) : alignDown address 4 = address := by
  apply BitVec.eq_of_getLsbD_eq
  intro i hi
  have hbit : (address.setWidth 2).getLsbD i = false := by rw [h]; simp
  simp only [alignDown, BitVec.getLsbD_and, BitVec.getLsbD_not, hi, decide_true, Bool.true_and,
    show BitVec.ofNat 32 (4 - 1) = 3#32 from rfl, getLsbD_three]
  by_cases h2 : i < 2
  · rw [BitVec.getLsbD_setWidth] at hbit
    simpa [h2] using hbit.symm
  · simp [h2]

theorem spanAddr_zero (address : Word) : spanAddr address 0 = alignDown address 4 := by simp [spanAddr]

theorem spanAddr_succ (address : Word) (j : Nat) : spanAddr address j + 4#32 = spanAddr address (j + 1) := by
  simp [spanAddr, Nat.mul_succ, BitVec.ofNat_add, BitVec.add_assoc]

/-- The span's words stand at word addresses (R67). -/
theorem wordAligned_spanAddr (address : Word) (j : Nat) : wordAligned (spanAddr address j) = true := by
  have hlow : (BitVec.ofNat 32 (4 * j)).setWidth 2 = 0#2 := by
    apply BitVec.eq_of_toNat_eq
    simp only [BitVec.toNat_setWidth, BitVec.toNat_ofNat]
    omega
  simp only [wordAligned, spanAddr, alignDown, beq_iff_eq]
  rw [BitVec.setWidth_add _ _ (by omega), hlow, BitVec.setWidth_and]
  simp

/-- A lane inside the span (R245). -/
theorem spanLane_inside {address length : Word} (lead : Word) (m : Memory) {j k : Nat}
    (h : (address.setWidth 2).toNat ≤ 4 * j + k) (h' : 4 * j + k < (address.setWidth 2).toNat + length.toNat) :
    spanLane address length lead m j k = m.read (BitVec.ofNat 32 (4 * j + k - (address.setWidth 2).toNat)) := by
  rw [spanLane]
  exact if_pos ⟨h, h'⟩

/-- A lane outside the span: memory's own byte in the leading word, the erased byte elsewhere (R245). -/
theorem spanLane_outside {address length : Word} (lead : Word) (m : Memory) {j k : Nat}
    (h : ¬ ((address.setWidth 2).toNat ≤ 4 * j + k ∧ 4 * j + k < (address.setWidth 2).toNat + length.toNat)) :
    spanLane address length lead m j k
      = if j = 0 ∧ (address.setWidth 2).toNat ≠ 0 then byteLane lead k else 0xFF#8 := by
  rw [spanLane]
  exact if_neg h

section Writer

variable {cfg : Params} {ps : List Poll} {m : Memory} {address length lead : Word} {since reported : Nat}

/-! ### One word -/

theorem plays_memWriteWord (hm : 1 ≤ cfg.engine.maxAttempts) {a w cur : Word} {idx : Nat} (ha : wordAligned a = true) :
    Plays cfg (WriterAt m cur idx since reported) (memWriteActs cfg a w) (memWriteWord a w)
      (WriterAt m cur idx since reported) :=
  (runs_memWriteWord hm a w ha).plays fun s hs => (ran_memWriteWord a w s).wired.keepsWriter hs

/-- The span's j-th word spliced is written, `idx` bytes taken before the write and `taken` behind it (R245). -/
theorem plays_writeSpliced (hm : 1 ≤ cfg.engine.maxAttempts) (hw : WriteWaits cfg ps) {taken cur : Word} {idx j : Nat}
    (hdone : idx + taken.toNat = spanDone address length j) (hfit : since + 1 < 2 ^ 32) :
    Plays cfg (fun s => WriterAt m cur idx since reported s ∧ s.seqRegs.word = spanWord address length lead m j)
      (wordActs cfg address length lead m ps j since reported) (writeSpliced (spanAddr address j) length taken)
      (WriterAt m (spanAddr address (j + 1)) (spanDone address length j) (nextSince cfg since)
        (nextReported cfg (spanDone address length j) reported)) := by
  have hmoved : ∀ s, WriterAt m cur idx since reported s →
      WriterAt m (spanAddr address (j + 1)) (spanDone address length j) since reported
        (s.mapSeqRegs fun r => { r with cur := spanAddr address j + 4#32, idx := r.idx + taken }) := by
    refine fun s h => ⟨h.buffer, spanAddr_succ address j, ?_, h.since, h.reported⟩
    have := spanBefore_lt address length (j + 1)
    rw [mapSeqRegs_seqRegs, BitVec.toNat_add, h.idx, hdone]
    exact Nat.mod_eq_of_lt this
  have hafter := (plays_afterWord hw length hfit).after (shows_mapSeqRegs _) hmoved
  exact ((plays_memWriteWord hm (wordAligned_spanAddr address j)).tryThen hafter |>.mono (fun s h => h.1) fun s => id).congr
    fun s hc h => by rw [writeSpliced, h.2]

/-! ### The leading word -/

/-- The leading word's splice is the span's first word (R245). -/
theorem splice_leading {s : State} (hlane : (address.setWidth 2).toNat ≠ 0) (hs : WriterAt m address 0 since reported s)
    (hword : s.seqRegs.word = lead) :
    WriterAt m address (spanDone address length 0) since reported
        (spliceBytes length (4 - (address.setWidth 2).toNat) (address.setWidth 2).toNat s)
      ∧ (spliceBytes length (4 - (address.setWidth 2).toNat) (address.setWidth 2).toNat s).seqRegs.word
          = spanWord address length lead m 0 := by
  have htaken : spliceTaken length (4 - (address.setWidth 2).toNat) s = spanDone address length 0 := by
    simp [spliceTaken, hs.idx, spanDone]
  refine ⟨?_, eq_spanWord fun k hk => ?_⟩
  · have h := hs.loaded (spliceBytes_loaded length (4 - (address.setWidth 2).toNat) (address.setWidth 2).toNat s)
      (by rw [htaken, Nat.zero_add]; exact spanBefore_lt address length 1)
    rwa [htaken, Nat.zero_add] at h
  · rw [byteLane_spliceBytes _ _ _ _ hk, htaken, hs.idx, hs.buffer, hword, spanDone]
    by_cases hin : (address.setWidth 2).toNat ≤ k ∧ k < (address.setWidth 2).toNat + length.toNat
    · rw [if_pos (by omega), spanLane_inside lead m (by omega) (by omega)]
      simp
    · rw [if_neg (by omega), spanLane_outside lead m (by omega), if_pos ⟨rfl, hlane⟩]

/-- How many words a leading partial word makes. -/
def leadCount (address : Word) : Nat := if address.setWidth 2 = 0#2 then 0 else 1

/-- The leading word's read (R245). -/
def leadReadActs (cfg : Params) (address : Word) (lead : Word × Word) : List Act :=
  if address.setWidth 2 = 0#2 then [] else memReadActs cfg (alignDown address 4) lead.1 lead.2

theorem plays_leadingWord (hm : 1 ≤ cfg.engine.maxAttempts) (hw : WriteWaits cfg ps) (lead : Word × Word) :
    Plays cfg (WriterAt m address 0 0 0)
      (leadReadActs cfg address lead ++ (spanActs cfg address length lead.2 m ps (leadCount address) 0 0 0).1)
      (leadingWord length)
      (WriterAt m (spanAddr address (leadCount address)) (spanBefore address length (leadCount address))
        (spanActs cfg address length lead.2 m ps (leadCount address) 0 0 0).2.1
        (spanActs cfg address length lead.2 m ps (leadCount address) 0 0 0).2.2) := by
  unfold leadReadActs leadCount
  by_cases hal : address.setWidth 2 = 0#2
  · have hcur : spanAddr address 0 = address := by rw [spanAddr_zero, alignDown_of_aligned hal]
    have hidx : spanBefore address length 0 = 0 := by simp [spanBefore]
    simp only [hal, if_true, hcur, hidx, spanActs]
    exact (Plays.ok () fun _ => id).congr fun s hc h => by simp [leadingWord, h.cur, hal]
  · have hlane : (address.setWidth 2).toNat ≠ 0 := fun h => hal (BitVec.eq_of_toNat_eq (by simpa using h))
    have hspliced : ∀ s, WriterAt m address 0 0 0 s → _ := fun s h =>
      splice_leading (s := s.mapSeqRegs fun r => { r with word := lead.2 }) (length := length) (lead := lead.2) hlane
        ⟨h.buffer, h.cur, h.idx, h.since, h.reported⟩ rfl
    have hword := (plays_writeSpliced hm hw (idx := spanDone address length 0) (taken := 0#32) rfl (by omega)).after
      ((shows_mapSeqRegs fun r => { r with word := lead.2 }).comp
        (.of_loaded fun s => spliceBytes_loaded length (4 - (address.setWidth 2).toNat) (address.setWidth 2).toNat s))
      hspliced
    have hread := (runs_memReadWord hm (spanAddr address 0) lead.1 lead.2 (wordAligned_spanAddr address 0)).tryThen_plays
      (P := WriterAt m address 0 0 0) (k := fun v s1 => writeSpliced (spanAddr address 0) length 0#32
        (spliceBytes length (4 - (address.setWidth 2).toNat) (address.setWidth 2).toNat
          (s1.mapSeqRegs fun r => { r with word := v })))
      (fun s hs => (ran_memReadWord (spanAddr address 0) s).wired.keepsWriter hs) hword
    simp only [hal, if_false, spanActs_succ, spanActs, List.append_nil]
    rw [← spanAddr_zero]
    exact hread.congr fun s hc h => by simp only [leadingWord, h.cur, hlane, if_false, spanAddr_zero]

/-! ### Whole words -/

/-- Four loaded lanes are a whole word of the span (R245). -/
theorem load_whole {j : Nat} {s : State} {cur : Word} (hlane : (address.setWidth 2).toNat ≤ 4 * j)
    (hleft : 4 ≤ length.toNat - spanBefore address length j)
    (hs : WriterAt m cur (spanBefore address length j) since reported s) :
    WriterAt m cur (spanBefore address length j) since reported (loadLanes 4 0 s)
      ∧ (loadLanes 4 0 s).seqRegs.word = spanWord address length lead m j := by
  refine ⟨hs.loaded (loadLanes_loaded 4 0 s) (spanBefore_lt address length j), eq_spanWord fun k hk => ?_⟩
  rw [byteLane_loadLanes _ _ _ hk, if_pos (by omega), hs.idx, hs.buffer]
  unfold spanBefore at hleft ⊢
  rw [spanLane_inside lead m (by omega) (by omega)]
  congr 2
  omega

theorem plays_wholeWord (hm : 1 ≤ cfg.engine.maxAttempts) (hw : WriteWaits cfg ps) {j : Nat}
    (hlane : (address.setWidth 2).toNat ≤ 4 * j) (hleft : 4 ≤ length.toNat - spanBefore address length j)
    (hfit : since + 1 < 2 ^ 32) :
    Plays cfg (WriterAt m (spanAddr address j) (spanBefore address length j) since reported)
      (wordActs cfg address length lead m ps j since reported)
      (fun s => writeSpliced s.seqRegs.cur length 4#32 (loadLanes 4 0 s))
      (WriterAt m (spanAddr address (j + 1)) (spanBefore address length (j + 1)) (nextSince cfg since)
        (nextReported cfg (spanDone address length j) reported)) := by
  have hdone : spanBefore address length j + (4#32).toNat = spanDone address length j := by
    simp only [spanDone, spanBefore, BitVec.toNat_ofNat] at hleft ⊢
    omega
  exact ((plays_writeSpliced hm hw hdone hfit).after (.of_loaded fun s => loadLanes_loaded 4 0 s)
    fun s h => load_whole hlane hleft h).congr fun s hc h => by rw [h.cur]

/-- The loop over the whole words, `n` of them (R245). -/
theorem plays_wholeWords (hm : 1 ≤ cfg.engine.maxAttempts) (hw : WriteWaits cfg ps) (fuel n j : Nat) (hfuel : n ≤ fuel)
    (hlane : (address.setWidth 2).toNat ≤ 4 * j) (hleft : 4 * n ≤ length.toNat - spanBefore address length j)
    (hlast : length.toNat - spanBefore address length j < 4 * n + 4) (hfit : since + n < 2 ^ 32) :
    Plays cfg (WriterAt m (spanAddr address j) (spanBefore address length j) since reported)
      (spanActs cfg address length lead m ps n j since reported).1 (wholeWords length fuel)
      (WriterAt m (spanAddr address (j + n)) (spanBefore address length (j + n))
        (spanActs cfg address length lead m ps n j since reported).2.1
        (spanActs cfg address length lead m ps n j since reported).2.2) := by
  induction fuel generalizing n j since reported with
  | zero =>
    obtain rfl : n = 0 := by omega
    exact Plays.ok () fun _ => id
  | succ fuel ih =>
    cases n with
    | zero =>
      exact (Plays.ok () fun _ => id).congr fun s hc h => by rw [wholeWords, h.idx, if_neg (by omega)]
    | succ n =>
      have hnext : spanBefore address length (j + 1) = spanBefore address length j + 4 := by
        simp only [spanBefore] at hleft ⊢
        omega
      have hsince := nextSince_le cfg since
      have hrest := ih (since := nextSince cfg since) (reported := nextReported cfg (spanDone address length j) reported)
        n (j + 1) (by omega) (by omega) (by omega) (by omega) (by omega)
      rw [spanActs_succ, show j + (n + 1) = j + 1 + n by omega]
      exact ((plays_wholeWord hm hw hlane (by omega) (by omega)).tryThen hrest).congr fun s hc h => by
        rw [wholeWords, h.idx, if_pos (by omega)]

/-! ### The trailing word -/

/-- The trailing word's splice into the erased fill is the span's last word (R245). -/
theorem splice_trailing {j : Nat} {s : State} {cur : Word} (hlane : (address.setWidth 2).toNat ≤ 4 * j)
    (hs : WriterAt m cur (spanBefore address length j) since reported s) (hword : s.seqRegs.word = 0xFFFFFFFF#32) :
    WriterAt m cur (spanDone address length j) since reported (spliceBytes length 4 0 s)
      ∧ (spliceBytes length 4 0 s).seqRegs.word = spanWord address length lead m j := by
  have hdone : spanBefore address length j + spliceTaken length 4 s = spanDone address length j := by
    simp only [spliceTaken, hs.idx, spanDone, spanBefore]
    omega
  refine ⟨?_, eq_spanWord fun k hk => ?_⟩
  · have h := hs.loaded (spliceBytes_loaded length 4 0 s) (by rw [hdone]; exact spanBefore_lt address length (j + 1))
    rwa [hdone] at h
  · rw [byteLane_spliceBytes _ _ _ _ hk, spliceTaken, hs.idx, hs.buffer, hword, spanBefore]
    by_cases hin : 4 * j + k < (address.setWidth 2).toNat + length.toNat
    · rw [if_pos (by omega), spanLane_inside lead m (by omega) hin]
      congr 2
      omega
    · rw [if_neg (by omega), spanLane_outside lead m (by omega), if_neg (by omega), byteLane_allOnes hk]

/-- How many words the bytes behind the whole words make. -/
def tailCount (length : Word) (done : Nat) : Nat := if done < length.toNat then 1 else 0

theorem plays_trailingWord (hm : 1 ≤ cfg.engine.maxAttempts) (hw : WriteWaits cfg ps) {j : Nat}
    (hlane : (address.setWidth 2).toNat ≤ 4 * j) (hfit : since + 1 < 2 ^ 32) :
    Plays cfg (WriterAt m (spanAddr address j) (spanBefore address length j) since reported)
      (spanActs cfg address length lead m ps (tailCount length (spanBefore address length j)) j since reported).1
      (trailingWord length)
      (fun s => ∃ cur idx, WriterAt m cur idx
        (spanActs cfg address length lead m ps (tailCount length (spanBefore address length j)) j since reported).2.1
        (spanActs cfg address length lead m ps (tailCount length (spanBefore address length j)) j since reported).2.2 s) := by
  unfold tailCount
  by_cases hmore : spanBefore address length j < length.toNat
  · simp only [hmore, if_true, spanActs_succ, spanActs, List.append_nil]
    have hspliced : ∀ s, WriterAt m (spanAddr address j) (spanBefore address length j) since reported s → _ :=
      fun s h => splice_trailing (s := s.mapSeqRegs fun r => { r with word := 0xFFFFFFFF#32 }) (lead := lead) hlane
        ⟨h.buffer, h.cur, h.idx, h.since, h.reported⟩ rfl
    have hwrite := ((plays_memWriteWord hm (w := spanWord address length lead m j)
      (wordAligned_spanAddr address j)).tryThen (plays_afterWord hw length hfit)).after
        ((shows_mapSeqRegs fun r => { r with word := 0xFFFFFFFF#32 }).comp
          (.of_loaded fun s => spliceBytes_loaded length 4 0 s)) fun s h => (hspliced s h).1
    refine (hwrite.mono (fun _ => id) fun s h => ⟨_, _, h⟩).congr fun s hc h => ?_
    simp only [trailingWord, h.idx, hmore, if_true, h.cur, (hspliced s h).2]
  · simp only [hmore, if_false, spanActs]
    refine (Plays.ok () fun s h => ⟨_, _, h⟩).congr fun s hc h => ?_
    rw [trailingWord, h.idx, if_neg hmore]

/-! ### The end of the write -/

theorem plays_closingWait (hw : WriteWaits cfg ps) {cur : Word} {idx : Nat} :
    Plays cfg (WriterAt m cur idx since reported) (if since = 0 then [] else readyPolls cfg ps)
      (fun s => if s.seqRegs.sincePoll = 0#32 then ((.ok (), s) : Res Unit)
        else waitControllerReady s.cfg.flash.writeWordTimeoutMs s)
      (WriterAt m cur idx since reported) := by
  have hnone : ∀ s, WriterAt m cur idx since reported s → (s.seqRegs.sincePoll = 0#32 ↔ since = 0) := fun s h => by
    rw [← h.since, BitVec.toNat_eq]
    rfl
  by_cases hzero : since = 0
  · rw [if_pos hzero]
    exact (Plays.ok () fun _ => id).congr fun s hc h => if_pos ((hnone s h).2 hzero)
  · rw [if_neg hzero]
    exact hw.plays.congr fun s hc h => by rw [if_neg (mt (hnone s h).1 hzero), hc]

theorem plays_closingReport (length : Word) {cur : Word} {idx : Nat} :
    Plays cfg (WriterAt m cur idx since reported) (if reported = length.toNat then [] else [.report length length .write])
      (fun s => ((if s.seqRegs.reported = length then (.ok (), s) else (.ok (), progress length length .write s)) : Res Unit))
      (fun _ => True) := by
  have hall : ∀ s, WriterAt m cur idx since reported s → (s.seqRegs.reported = length ↔ reported = length.toNat) :=
    fun s h => by rw [← h.reported, BitVec.toNat_eq]
  by_cases hsaid : reported = length.toNat
  · rw [if_pos hsaid]
    exact (Plays.ok () fun _ _ => trivial).congr fun s hc h => if_pos ((hall s h).2 hsaid)
  · rw [if_neg hsaid]
    exact ((Plays.ok (P := fun _ => True) () fun _ => id).after (shows_progress length length .write)
      fun _ _ => trivial).congr fun s hc h => if_neg (mt (hall s h).1 hsaid)

/-- The closing ready wait and the closing report (R245). -/
theorem plays_closeTail (hw : WriteWaits cfg ps) (length : Word) {cur : Word} {idx : Nat} :
    Plays cfg (WriterAt m cur idx since reported)
      ((if since = 0 then [] else readyPolls cfg ps)
        ++ (if reported = length.toNat then [] else [.report length length .write]))
      (closeTail length) (fun _ => True) :=
  (plays_closingWait hw).tryThen (plays_closingReport length)

end Writer

/-! ### The whole write -/

/-- How many whole words follow once the words before the j-th are written. -/
def wholeCount (address length : Word) (j : Nat) : Nat := (length.toNat - spanBefore address length j) / 4

/-- How many words follow at all. -/
def restCount (address length : Word) (j : Nat) : Nat :=
  wholeCount address length j + tailCount length (spanBefore address length (j + wholeCount address length j))

/-- The leading word and those behind it are the span's words. -/
theorem spanWords_eq (address length : Word) :
    spanWords address length = leadCount address + restCount address length (leadCount address) := by
  have hlane : (address.setWidth 2).toNat < 4 := (address.setWidth 2).isLt
  have haligned : address.setWidth 2 = 0#2 ↔ (address.setWidth 2).toNat = 0 := by rw [BitVec.toNat_eq]; rfl
  simp only [spanWords, leadCount, restCount, wholeCount, tailCount, spanBefore, haligned]
  split <;> split <;> omega

section Writer

variable {cfg : Params} {ps : List Poll} {address length : Word} {m : Memory}

/-- The words of a span behind the leading one (R245). -/
theorem plays_restWords (hm : 1 ≤ cfg.engine.maxAttempts) (hw : WriteWaits cfg ps) (lead : Word) {j since reported : Nat}
    (hlane : (address.setWidth 2).toNat ≤ 4 * j) (hsince : since ≤ 1) :
    Plays cfg (WriterAt m (spanAddr address j) (spanBefore address length j) since reported)
      (spanActs cfg address length lead m ps (restCount address length j) j since reported).1
      (fun s => tryThen (wholeWords length (length.toNat / 4) s) fun _ => trailingWord length)
      (fun s => ∃ cur idx, WriterAt m cur idx
        (spanActs cfg address length lead m ps (restCount address length j) j since reported).2.1
        (spanActs cfg address length lead m ps (restCount address length j) j since reported).2.2 s) := by
  have hlen := length.isLt
  have hcount : wholeCount address length j = (length.toNat - spanBefore address length j) / 4 := rfl
  have hwait := spanActs_since_le cfg address length lead m ps (wholeCount address length j) j since reported
  rw [restCount, spanActs_add]
  exact (plays_wholeWords hm hw _ _ j (by omega) hlane (by omega) (by omega) (by omega)).tryThen
    (plays_trailingWord hm hw (by omega) (by omega))

/-- The words of a span, from the leading one to the trailing one (R245). -/
theorem plays_spanWords (hm : 1 ≤ cfg.engine.maxAttempts) (hw : WriteWaits cfg ps) (lead : Word × Word) :
    Plays cfg (WriterAt m address 0 0 0)
      (leadReadActs cfg address lead
        ++ (spanActs cfg address length lead.2 m ps (spanWords address length) 0 0 0).1)
      (fun s => tryThen (leadingWord length s) fun _ s2 =>
        tryThen (wholeWords length (length.toNat / 4) s2) fun _ => trailingWord length)
      (fun s => ∃ cur idx, WriterAt m cur idx
        (spanActs cfg address length lead.2 m ps (spanWords address length) 0 0 0).2.1
        (spanActs cfg address length lead.2 m ps (spanWords address length) 0 0 0).2.2 s) := by
  have hcount : (address.setWidth 2).toNat ≤ 4 * leadCount address ∧ leadCount address ≤ 1 := by
    have := (address.setWidth 2).isLt
    unfold leadCount
    split
    next h => simp [h]
    next => omega
  have hwait := spanActs_since_le cfg address length lead.2 m ps (leadCount address) 0 0 0
  rw [spanWords_eq, spanActs_add, Nat.zero_add, ← List.append_assoc]
  exact (plays_leadingWord hm hw lead).tryThen (plays_restWords hm hw lead.2 hcount.1 (by omega))

/-- A mode switch whose read-back shows the mode (R241). -/
theorem runs_setControllerMode_shown (hm : 1 ≤ cfg.engine.maxAttempts) (hn : wordAligned cfg.flash.nvmcConfig = true)
    {mode : NvmcMode} {back : Word × Word} (h : ShowsMode cfg mode back) :
    Runs cfg (modeActs cfg mode back) (setControllerMode mode) (.ok ()) := by
  have hrun := runs_setControllerMode hm mode back hn
  unfold ShowsMode at h
  rwa [if_pos h] at hrun

/-- The body of a buffered write that the controller follows (R245). -/
theorem plays_writeBufferBody (hm : 1 ≤ cfg.engine.maxAttempts) (hn : wordAligned cfg.flash.nvmcConfig = true)
    {k : WriteTalk} (hw : WriteWaits cfg k.ready) (hinto : ShowsMode cfg .write k.into) :
    let body := spanActs cfg address length k.lead.2 m k.ready (spanWords address length) 0 0 0
    Plays cfg (fun s => s.inputs.buffer = m)
      (leadActs cfg address k ++ body.1 ++ (if body.2.1 = 0 then [] else readyPolls cfg k.ready)
        ++ (if body.2.2 = length.toNat then [] else [.report length length .write]))
      (writeBufferBody address length) (fun _ => True) := by
  intro body
  have hmode := runs_setControllerMode_shown hm hn hinto
  have hstart : ∀ s : State, s.inputs.buffer = m → WriterAt m address 0 0 0
      (s.mapSeqRegs fun r => { r with cur := address, idx := 0#32, sincePoll := 0#32, reported := 0#32 }) :=
    fun s h => ⟨h, rfl, rfl, rfl, rfl⟩
  have hwords := (plays_spanWords (address := address) (length := length) (m := m) hm hw k.lead).tryThen
    (.of_exists fun _ => .of_exists fun _ => plays_closeTail hw length)
  have hall := (hmode.plays (P := fun s => s.inputs.buffer = m) fun s h =>
    (ran_setControllerMode .write s).wired.buffer.trans h).tryThen (hwords.after (shows_mapSeqRegs _) hstart)
  have hacts : leadActs cfg address k = modeActs cfg .write k.into ++ leadReadActs cfg address k.lead := rfl
  simp only [hacts, List.append_assoc, List.nil_append] at hall ⊢
  exact hall.congr fun s hc h => by simp only [writeBufferBody, tryThen_assoc]

end Writer

/-- A body that completes is followed by the restoring switch (R242). -/
theorem Plays.finish {cfg : Params} {P Q : State → Prop} {as : List Act} {f : State → Res Unit} {back : Word × Word}
    (hm : 1 ≤ cfg.engine.maxAttempts) (hn : wordAligned cfg.flash.nvmcConfig = true)
    (hback : ShowsMode cfg .readOnly back) (h : Plays cfg P as f Q) :
    Plays cfg P (as ++ modeActs cfg .readOnly back) (fun s => Machine.finish (f s)) (fun _ => True) := by
  have hmode := runs_setControllerMode_shown hm hn hback
  intro s rest hc hp hP ha
  obtain ⟨a, t, heq, ht, hQ⟩ := (h.tryThen (hmode.plays (Q := fun _ => True) fun _ _ => trivial)) s rest hc hp hP ha
  refine ⟨a, t, ?_, ht, hQ⟩
  obtain ⟨b, u, hf, -⟩ := h s _ hc hp hP ha.split
  simpa only [hf, Machine.finish, tryThen_ok] using heq

/-- A buffered write that is answered well (R245). -/
theorem plays_writeBuffer {cfg : Params} {address length : Word} {m : Memory} {k : WriteTalk}
    (hvalid : validConfig cfg = true) (hn : NvmcAligned cfg) (hlen : length ≠ 0#32)
    (hfit : address.toNat + length.toNat ≤ 2 ^ 32) (hk : k.good cfg) :
    Plays cfg (fun s => s.inputs.buffer = m) (bufferActs cfg address length m k) (writeBuffer address length)
      (fun _ => True) := by
  obtain ⟨-, -, -, -, hm, -, hready, -⟩ := (validConfig_iff cfg).1 hvalid
  obtain ⟨hnready, hnconfig, -, -⟩ := hn
  obtain ⟨⟨hinto, hsettles⟩, hback⟩ := hk
  have hw : WriteWaits cfg k.ready := runs_waitControllerReady hm hnready hready hsettles
  exact ((plays_writeBufferBody hm hnconfig hw hinto).finish hm hnconfig hback).congr fun s hc h => by
    rw [writeBuffer, if_neg hlen, if_neg (by omega)]

theorem exec_writeBuffer (address length : Word) (s : State) :
    exec (.writeBuffer address length) s = .next (respondUnit (writeBuffer address length s)) := rfl

/-- Settles O43: the leading word, the loop over the whole words and the trailing word each write their part of the span's
words, and the writer's registers pass the counts from one to the next. -/
theorem writeBufferWritesTheSpan : Obligations.WriteBufferWritesTheSpan := by
  intro s address length k rest hp hvalid hn hlen hfit hk ha
  obtain ⟨a, t, heq, ht, -⟩ := plays_writeBuffer hvalid hn hlen hfit hk s rest rfl hp rfl ha
  have hsession : t.session = s.session := by
    have h := worked_writeBuffer address length s
    rw [heq] at h
    exact session_eq_of_parked hp ht.2.2.1 h.session
  refine ⟨_, exec_writeBuffer address length s, ?_⟩
  rw [respondUnit, heq]
  exact ⟨⟨rfl, rfl⟩, ht.respond _, hsession⟩

end Sys2Proof.Machine

/-! # The encoding family (`30_encoding.md`): words and instructions, frames and sequences on the wire -/

/-! ## The decoder reads what the encoder writes (R104, R110, R122, R123) -/

namespace Sys2Proof.Machine

/-! ### Slices of a bit string -/

theorem slice_eq_left {as bs : List Bool} {n : Nat} (h : as.length = n) : slice (as ++ bs) 0 n = as := by
  simp [slice, ← h]

theorem slice_eq_right {as bs : List Bool} {i n : Nat} (h : as.length ≤ i) :
    slice (as ++ bs) i n = slice bs (i - as.length) n := by
  simp [slice, List.drop_append, List.drop_of_length_le h]

theorem slice_eq_self {bs : List Bool} {n : Nat} (h : bs.length = n) : slice bs 0 n = bs := by
  simp [slice, ← h]

/-! ### The fields of a request byte (R104) -/

@[simp] theorem length_encodeReq (a : Addr4) (p r : Bool) : (encodeReq a p r).length = 8 := by
  simp [encodeReq]

@[simp] theorem ofLsbBits_encodeReq (a : Addr4) (p r : Bool) : ofLsbBits 8 (encodeReq a p r) = requestByte a p r :=
  ofLsbBits_lsbBits _

@[simp] theorem requestByte_isAP (a : Addr4) (p r : Bool) : (requestByte a p r)[1] = p :=
  getLsbD_ofLsbBits 8 _ 1

@[simp] theorem requestByte_isRead (a : Addr4) (p r : Bool) : (requestByte a p r)[2] = r :=
  getLsbD_ofLsbBits 8 _ 2

/-- The two sent address bits are the register (R104, R106). -/
@[simp] theorem requestByte_reg (reg : BitVec 2) (p r : Bool) :
    ofLsbBits 2 [(requestByte (regAddr reg) p r)[3], (requestByte (regAddr reg) p r)[4]] = reg := by
  have hsent (a : Addr4) : (requestByte a p r)[3] = a.getLsbD 2 ∧ (requestByte a p r)[4] = a.getLsbD 3 :=
    ⟨getLsbD_ofLsbBits 8 _ 3, getLsbD_ofLsbBits 8 _ 4⟩
  have hreg : [(regAddr reg).getLsbD 2, (regAddr reg).getLsbD 3] = lsbBits reg 2 := by
    simp [regAddr, lsbBits, List.range_succ]
  rw [(hsent _).1, (hsent _).2, hreg, ofLsbBits_lsbBits]

/-! ### Request rows (R107, R110) -/

theorem decodeWire_request {bits : List Bool} (h : bits.length = 8) :
    decodeWire bits = decodeRequestByte (ofLsbBits 8 bits) [] := by
  simp only [decodeWire, h]

theorem decodeWire_write {bits : List Bool} (h : bits.length = 40) :
    decodeWire bits = decodeRequestByte (ofLsbBits 8 (slice bits 0 8)) (slice bits 8 32) := by
  simp only [decodeWire, h]

theorem decodeWire_frame {bits : List Bool} (h : bits.length = 46 ∨ bits.length = 47) :
    decodeWire bits = decodeFrame bits := by
  rcases h with h | h <;> simp only [decodeWire, h]

/-- A read request decodes to the row of its byte. -/
theorem decode_encodeRead {a : Addr4} {p : Bool} {i : Instr}
    (h : decodeRequestByte (requestByte a p true) [] = .ok i) : decode (encodeRead a p) = .ok i := by
  rw [encodeRead, decode, decodeWire_request (length_encodeReq _ _ _), ofLsbBits_encodeReq, h]

/-- A write request decodes to the row of its byte, with the payload behind it. -/
theorem decode_encodeWrite {a : Addr4} {p : Bool} {d : Word} {row : Word → Instr}
    (h : ∀ payload, decodeRequestByte (requestByte a p false) payload = .ok (row (ofLsbBits 32 payload))) :
    decode (encodeWrite a p d) = .ok (row d) := by
  have hdata : slice (encodeReq a p false ++ lsbBits d 32) 8 32 = lsbBits d 32 := by
    rw [slice_eq_right (by simp), length_encodeReq, slice_eq_self (by simp)]
  rw [encodeWrite, decode, decodeWire_write (by simp), slice_eq_left (by simp), hdata, ofLsbBits_encodeReq, h,
    ofLsbBits_lsbBits]

/-! ### Frames (R102) -/

/-- The twelve bits every frame begins with: the request, `T(0)`, the acknowledgement (R102; log 22). -/
def frameHead (reg : BitVec 2) (p r : Bool) (ack : BitVec 3) : List Bool :=
  encodeReq (regAddr reg) p r ++ [false] ++ lsbBits ack 3

section Frame

variable (reg : BitVec 2) (p r : Bool) (ack : BitVec 3) (tail : List Bool)

@[simp] theorem length_frameHead : (frameHead reg p r ack).length = 12 := by
  simp [frameHead]

theorem slice_frameHead_request : slice (frameHead reg p r ack ++ tail) 0 8 = encodeReq (regAddr reg) p r := by
  rw [frameHead, List.append_assoc, List.append_assoc, slice_eq_left (by simp)]

theorem slice_frameHead_turn : slice (frameHead reg p r ack ++ tail) 8 1 = [false] := by
  rw [frameHead, List.append_assoc, List.append_assoc, slice_eq_right (by simp), length_encodeReq]
  rfl

theorem slice_frameHead_ack : slice (frameHead reg p r ack ++ tail) 9 3 = lsbBits ack 3 := by
  rw [frameHead, List.append_assoc, slice_eq_right (by simp), List.length_append, length_encodeReq]
  exact slice_eq_left (by simp)

theorem slice_frameHead_tail {i n : Nat} (h : 12 ≤ i) : slice (frameHead reg p r ack ++ tail) i n = slice tail (i - 12) n := by
  rw [slice_eq_right (by simpa using h), length_frameHead]

/-- The decoder of a frame reads the fields of its head (R102). -/
theorem decodeFrame_frameHead :
    decodeFrame (frameHead reg p r ack ++ tail)
      = if ack ≠ 1#3 then
          if tail.length = 34 ∧ slice tail 0 34 = true :: List.replicate 33 false then .ok (.frameNotOk p r reg ack)
          else .error .badFrame
        else if r then
          if tail.length = 35 ∧ slice tail 33 2 = [true, false] then
            .ok (.frameReadOk p reg (ofLsbBits 32 (slice tail 0 32)) (slice tail 32 1 = [true]))
          else .error .badFrame
        else if tail.length = 35 ∧ slice tail 0 1 = [true]
            ∧ slice tail 33 2 = [parity32 (ofLsbBits 32 (slice tail 1 32)), false] then
          .ok (.frameWriteOk p reg (ofLsbBits 32 (slice tail 1 32)))
        else .error .badFrame := by
  have h46 : 12 + tail.length = 46 ↔ tail.length = 34 := by omega
  have h47 : 12 + tail.length = 47 ↔ tail.length = 35 := by omega
  simp [decodeFrame, slice_frameHead_request, slice_frameHead_turn, slice_frameHead_ack, slice_frameHead_tail,
    h46, h47]

end Frame

theorem decode_frameReadOk (p : Bool) (reg : BitVec 2) (d : Word) (par : Bool) :
    decode (encode (.frameReadOk p reg d par)) = .ok (.frameReadOk p reg d par) := by
  have henc : encode (.frameReadOk p reg d par) = .wire (frameHead reg p true 1#3 ++ (lsbBits d 32 ++ [par, true, false])) := by
    simp [encode, frameHead]
  have hdata : slice (lsbBits d 32 ++ [par, true, false]) 0 32 = lsbBits d 32 := slice_eq_left (by simp)
  have hrest : ∀ i n, 32 ≤ i → slice (lsbBits d 32 ++ [par, true, false]) i n = slice [par, true, false] (i - 32) n :=
    fun i n h => by rw [slice_eq_right (by simpa using h), lsbBits_length]
  rw [henc, decode, decodeWire_frame (by simp), decodeFrame_frameHead, hdata, hrest 33 2 (by omega), hrest 32 1 (by omega)]
  simp [slice]

theorem decode_frameWriteOk (p : Bool) (reg : BitVec 2) (d : Word) :
    decode (encode (.frameWriteOk p reg d)) = .ok (.frameWriteOk p reg d) := by
  have henc : encode (.frameWriteOk p reg d)
      = .wire (frameHead reg p false 1#3 ++ (true :: (lsbBits d 32 ++ [parity32 d, false]))) := by
    simp [encode, frameHead]
  have hdata : slice (true :: (lsbBits d 32 ++ [parity32 d, false])) 1 32 = lsbBits d 32 := slice_eq_left (by simp)
  have hrest : slice (true :: (lsbBits d 32 ++ [parity32 d, false])) 33 2 = [parity32 d, false] := by
    rw [← List.cons_append, slice_eq_right (by simp)]
    simp [slice]
  rw [henc, decode, decodeWire_frame (by simp), decodeFrame_frameHead, hdata, hrest]
  simp [slice]

theorem decode_frameNotOk (p r : Bool) (reg : BitVec 2) {ack : BitVec 3} (h : ack ≠ 1#3) :
    decode (encode (.frameNotOk p r reg ack)) = .ok (.frameNotOk p r reg ack) := by
  have henc : encode (.frameNotOk p r reg ack) = .wire (frameHead reg p r ack ++ (true :: List.replicate 33 false)) := rfl
  rw [henc, decode, decodeWire_frame (by simp), decodeFrame_frameHead, if_pos h, slice_eq_self (by simp),
    if_pos ⟨by simp, rfl⟩]

/-! ### The fixed sequences (R112 to R114) -/

@[simp] theorem length_lineResetFormat : lineResetFormat.length = 61 := rfl
@[simp] theorem length_jtagToSwdFormat : jtagToSwdFormat.length = 77 := rfl
@[simp] theorem length_dormantWakeFormat : dormantWakeFormat.length = 209 := by
  simp [dormantWakeFormat]

/-! ### Command tuples (R122, R123) -/

/-- Whichever way a tuple reaches the block, its operation is the one its code names. -/
theorem decode_callOf (c : Command) : decode (callOf c) = decodeCommand c := by
  unfold callOf
  split
  case isTrue h => simp only [decode, h, if_true]
  case isFalse => rfl

@[simp] theorem flagBits_bit0 (b0 b1 : Bool) : (flagBits b0 b1)[0] = b0 := getLsbD_ofLsbBits 8 _ 0
@[simp] theorem flagBits_bit1 (b0 b1 : Bool) : (flagBits b0 b1)[1] = b1 := getLsbD_ofLsbBits 8 _ 1

/-- A count within bounds is read back from `CMD_LEN`. -/
theorem decodeCount_setWidth {n : BitVec 6} (h : n.toNat ≤ 32) (k : BitVec 6 → Instr) :
    decodeCount (n.setWidth 32) k = .ok (k n) := by
  have hnat : (n.setWidth 32).toNat = n.toNat := by simp; omega
  rw [decodeCount, hnat, if_pos h, BitVec.setWidth_setWidth_of_le _ (by omega), BitVec.setWidth_eq]

/-- Settles O5, row by row: the wire formats by their slices, the tuples by the operands their codes take. -/
theorem decodeEncode : Obligations.DecodeEncode := by
  intro i hwf
  cases i with
  | reqDpRead0 | reqDpRead4 | reqDpRead8 | reqDpReadC | reqApRead0 | reqApRead4 | reqApRead8 | reqApReadC =>
    exact decode_encodeRead rfl
  | reqDpWrite0 d | reqDpWrite4 d | reqDpWrite8 d | reqDpWriteC d | reqApWrite0 d | reqApWrite4 d | reqApWrite8 d
  | reqApWriteC d => exact decode_encodeWrite fun _ => rfl
  | ackReserved000 | ackOk | ackWait | ackReserved011 | ackFault | ackReserved101 | ackReserved110
  | ackReserved111 => rfl
  | frameReadOk p reg d par => exact decode_frameReadOk p reg d par
  | frameWriteOk p reg d => exact decode_frameWriteOk p reg d
  | frameNotOk p r reg ack => exact decode_frameNotOk p r reg (by simpa [Instr.wf] using hwf)
  | seqLineReset | seqJtagToSwd | seqDormantWake => simp [encode, decode, decodeWire]
  | writeBits v n => exact (decode_callOf _).trans (decodeCount_setWidth (by simpa [Instr.wf] using hwf) _)
  | readBits n => exact (decode_callOf _).trans (decodeCount_setWidth (by simpa [Instr.wf] using hwf) _)
  | turnaround | rawTransfer | dpRead | dpWrite | apRead | apWrite | updateFirmware =>
    exact (decode_callOf _).trans (by simp [decodeCommand])
  | setControllerMode m => cases m <;> exact decode_callOf _
  | _ => exact decode_callOf _

end Sys2Proof.Machine

/-! ## What the decoder answers is well-formed (R102, R141, R142) -/

namespace Sys2Proof.Machine

/-- A count operand that passes the decoder is at most 32 (R141, R142, D11). -/
theorem wf_of_decodeCount {len : Word} {k : BitVec 6 → Instr} {i : Instr}
    (hk : ∀ n : BitVec 6, n.toNat ≤ 32 → (k n).wf = true) (h : decodeCount len k = .ok i) : i.wf = true := by
  unfold decodeCount at h
  split at h
  case isTrue hle =>
    cases h
    exact hk _ (by simp; omega)
  case isFalse => cases h

theorem wf_of_decodeMode {data : Word} {i : Instr} (h : decodeMode data = .ok i) : i.wf = true := by
  unfold decodeMode at h
  split at h <;> cases h <;> rfl

/-- Of the operations only the two with a count can be ill-formed. -/
theorem wf_of_decodeCommand {c : Command} {i : Instr} (h : decodeCommand c = .ok i) : i.wf = true := by
  unfold decodeCommand at h
  split at h
  case h_3 | h_4 => exact wf_of_decodeCount (fun n hn => by simpa [Instr.wf] using hn) h
  case h_24 => exact wf_of_decodeMode h
  all_goals cases h <;> rfl

/-- A request row is well-formed whatever its payload. -/
theorem wf_of_decodeRequestByte {req : BitVec 8} {payload : List Bool} {i : Instr}
    (h : decodeRequestByte req payload = .ok i) : i.wf = true := by
  unfold decodeRequestByte at h
  by_cases hp : payload = []
  · simp only [hp, if_true] at h
    split at h <;> cases h <;> rfl
  · simp only [hp, if_false] at h
    split at h <;> cases h <;> rfl

theorem wf_decodeAckBits (a : BitVec 3) : (decodeAckBits a).wf = true := by
  unfold decodeAckBits
  split <;> rfl

/-- A not-OK frame carries an acknowledgement other than OK, since an OK one is read as another frame (R102). -/
theorem wf_of_decodeFrame {bits : List Bool} {i : Instr} (h : decodeFrame bits = .ok i) : i.wf = true := by
  unfold decodeFrame at h
  dsimp only at h
  split at h
  case isTrue => cases h
  case isFalse =>
    split at h
    case isTrue hack =>
      split at h <;> cases h
      simpa [Instr.wf] using hack
    case isFalse =>
      split at h <;> split at h <;> cases h <;> rfl

theorem wf_of_decodeWire {bits : List Bool} {i : Instr} (h : decodeWire bits = .ok i) : i.wf = true := by
  unfold decodeWire at h
  split at h
  case h_1 =>
    cases h
    exact wf_decodeAckBits _
  case h_2 | h_3 => exact wf_of_decodeRequestByte h
  case h_4 | h_5 => exact wf_of_decodeFrame h
  case h_6 | h_7 | h_8 => split at h <;> cases h; rfl
  case h_9 => cases h

/-- Settles O6, format by format. -/
theorem decodedIsWellFormed : Obligations.DecodedIsWellFormed := by
  intro r i h
  cases r with
  | port c =>
    simp only [decode] at h
    split at h
    case isTrue => exact wf_of_decodeCommand h
    case isFalse => cases h
  | direct c => exact wf_of_decodeCommand h
  | wire bits => exact wf_of_decodeWire h

end Sys2Proof.Machine

/-! ## Request bytes and operands (R104 to R107, R117) -/

namespace Sys2Proof.Machine

/-! ### The request byte (R104, R105) -/

/-- The lookup table holds the exclusive or of its index's bits (R147). -/
theorem parityLut_eq_xor : ∀ n : BitVec 4,
    parityLut n = Bool.xor (n.getLsbD 0) (Bool.xor (n.getLsbD 1) (Bool.xor (n.getLsbD 2) (n.getLsbD 3))) := by
  decide

theorem requestParity_eq_xor (addr : Addr4) (isAP isRead : Bool) :
    requestParity addr isAP isRead
      = Bool.xor isAP (Bool.xor isRead (Bool.xor (addr.getLsbD 2) (addr.getLsbD 3))) := by
  simp only [requestParity, parityLut_eq_xor, getLsbD_ofLsbBits]
  rfl

/-- The byte of five bits between start, stop and park, written as R104 writes it. -/
theorem ofLsbBits_eq_or : ∀ b1 b2 b3 b4 b5 : Bool,
    ofLsbBits 8 [true, b1, b2, b3, b4, b5, false, true]
      = (0x81#8 ||| ((BitVec.ofBool b1).setWidth 8 <<< 1) ||| ((BitVec.ofBool b2).setWidth 8 <<< 2)
          ||| ((BitVec.ofBool b3).setWidth 8 <<< 3) ||| ((BitVec.ofBool b4).setWidth 8 <<< 4)
          ||| ((BitVec.ofBool b5).setWidth 8 <<< 5)) := by
  decide

/-- Settles O8: the parity is the table's entry, and the byte's bits stand in the order they are sent. -/
theorem requestByteOfR104 : Obligations.RequestByteOfR104 := by
  intro addr isAP isRead
  have hpar := requestParity_eq_xor addr isAP isRead
  refine ⟨hpar, ?_, ?_⟩
  · rw [requestByte, hpar, ofLsbBits_eq_or]
  · rw [lsbBits_requestByte, hpar]

/-! ### The request rows (R107) -/

theorem encodeRead_eq {a : Addr4} {p : Bool} {b : BitVec 8} (h : requestByte a p true = b) :
    encodeRead a p = .wire (lsbBits b 8) := by
  rw [encodeRead, encodeReq, h]

theorem encodeWrite_eq {a : Addr4} {p : Bool} {d : Word} {b : BitVec 8} (h : requestByte a p false = b) :
    encodeWrite a p d = .wire (lsbBits b 8 ++ lsbBits d 32) := by
  rw [encodeWrite, encodeReq, h]

/-- Settles O9: each row's byte is evaluated, and each row runs the transfer it stands for. -/
theorem sixteenRequestBytes : Obligations.SixteenRequestBytes := by
  intro d
  refine ⟨encodeRead_eq ?_, encodeRead_eq ?_, encodeRead_eq ?_, encodeRead_eq ?_, encodeWrite_eq ?_, encodeWrite_eq ?_,
    encodeWrite_eq ?_, encodeWrite_eq ?_, encodeRead_eq ?_, encodeRead_eq ?_, encodeRead_eq ?_, encodeRead_eq ?_,
    encodeWrite_eq ?_, encodeWrite_eq ?_, encodeWrite_eq ?_, encodeWrite_eq ?_, fun _ _ _ _ _ h s => exec_transfer h s⟩
  all_goals decide

/-! ### The select word (R117) -/

/-- Bit `k` of the select word is one of the index, of the bank, or 0 (R117). -/
theorem getLsbD_selectWord (i : ApIndex) (reg8 : Reg8) {k : Nat} (hk : k < 32) :
    (selectWord i reg8).getLsbD k
      = ((decide (24 ≤ k) && i.getLsbD (k - 24)) || (decide (4 ≤ k ∧ k < 8) && reg8.getLsbD k)) := by
  have hmask : ∀ k < 32, (0xF0#32).getLsbD k = decide (4 ≤ k ∧ k < 8) := by decide
  simp only [selectWord, BitVec.getLsbD_or, BitVec.getLsbD_and, BitVec.getLsbD_shiftLeft, BitVec.getLsbD_setWidth,
    hmask k hk, hk]
  grind

theorem selectWord_eq (i : ApIndex) (reg8 : Reg8) :
    selectWord i reg8 = ((i.setWidth 32) <<< 24) ||| (((reg8.extractLsb' 4 4).setWidth 32) <<< 4) := by
  apply BitVec.eq_of_getLsbD_eq
  intro k hk
  rw [getLsbD_selectWord i reg8 hk]
  simp only [BitVec.getLsbD_or, BitVec.getLsbD_shiftLeft, BitVec.getLsbD_setWidth, BitVec.getLsbD_extractLsb']
  grind

/-- A field of the select word is read off its bits. -/
theorem extractLsb'_selectWord {i : ApIndex} {reg8 : Reg8} {n len : Nat} {v : BitVec len} (hn : n + len ≤ 32)
    (hv : ∀ k < len, v.getLsbD k
      = ((decide (24 ≤ n + k) && i.getLsbD (n + k - 24)) || (decide (4 ≤ n + k ∧ n + k < 8) && reg8.getLsbD (n + k)))) :
    (selectWord i reg8).extractLsb' n len = v := by
  refine BitVec.eq_of_getLsbD_eq fun k hk => ?_
  rw [BitVec.getLsbD_extractLsb', getLsbD_selectWord i reg8 (by omega), hv k hk]
  simp [hk]

/-- The index in the top byte, the bank in bits 7 to 4, zeros in the rest (R117). -/
theorem selectWord_fields (i : ApIndex) (reg8 : Reg8) :
    (selectWord i reg8).extractLsb' 24 8 = i ∧ (selectWord i reg8).extractLsb' 4 4 = reg8.extractLsb' 4 4
      ∧ (selectWord i reg8).extractLsb' 8 16 = 0#16 ∧ (selectWord i reg8).extractLsb' 0 4 = 0#4 := by
  refine ⟨extractLsb'_selectWord (by omega) ?_, extractLsb'_selectWord (by omega) ?_,
    extractLsb'_selectWord (by omega) ?_, extractLsb'_selectWord (by omega) ?_⟩
  all_goals grind

/-- Settles O10, from the bits of the request byte and of the select word. -/
theorem addressAssembly : Obligations.AddressAssembly := by
  refine ⟨fun a b p r h2 h3 => ?_, fun reg8 => ?_, fun i reg8 => ⟨selectWord_eq i reg8, selectWord_fields i reg8⟩,
    rfl, fun i => ⟨selectWord_eq i 0xFC#8, ?_⟩⟩
  · simp only [requestByte, requestParity, h2, h3]
  · exact BitVec.setWidth_eq_extractLsb' (by omega)
  · simp [selectWord]

end Sys2Proof.Machine

/-! ## The fixed sequences (R112 to R116, R144 to R146) -/

namespace Sys2Proof.Machine

/-! ### Sendings and what they leave in `SHIFT` and `BITCNT` -/

/-- From `s` to `t` the bits were sent; `SHIFT` and `BITCNT` hold whatever the sending left in them (R141; log 21). -/
def Sends (bits : List Bool) (s t : State) : Prop :=
  ∃ sh n, t = (sendBits bits s).mapLinkRegs fun r => { r with shift := sh, bitcnt := n }

theorem sendBits_mapLinkRegs (bs : List Bool) (f : LinkRegs → LinkRegs) (s : State) :
    sendBits bs (s.mapLinkRegs f) = (sendBits bs s).mapLinkRegs f := by
  cases hd : s.session.driveState with
  | driven => rw [sendBits_driven bs hd, sendBits_driven bs (by simpa using hd)]; rfl
  | released => rw [sendBits_released bs hd, sendBits_released bs (by simpa using hd)]; rfl

theorem sends_sendBits (bits : List Bool) (s : State) : Sends bits s (sendBits bits s) := ⟨_, _, rfl⟩

theorem sends_writeBits (v : Word) (n : Nat) (s : State) : Sends (lsbBits v n) s (writeBits v n s) := ⟨_, _, rfl⟩

/-- One sending after another is one sending (R144). -/
theorem Sends.trans {as bs : List Bool} {s t u : State} (h : Sends as s t) (k : Sends bs t u) : Sends (as ++ bs) s u := by
  obtain ⟨sh, n, rfl⟩ := h
  obtain ⟨sh', n', rfl⟩ := k
  exact ⟨sh', n', by rw [sendBits_mapLinkRegs, sendBits_append]; rfl⟩

theorem Sends.cfg {bits : List Bool} {s t : State} (h : Sends bits s t) : t.cfg = s.cfg := by
  obtain ⟨sh, n, rfl⟩ := h
  exact (wired_sendBits bits s).cfg

/-- What a sending leaves of a quiet state (R37, R141). -/
theorem Sends.eq_of_quiet {bits : List Bool} {s t : State} (h : Sends bits s t) (hq : Quiet s) :
    ∃ sh n, t
      = { s with
          pins :=
            { s.pins with
              swdioOe := true
              swdioOut := bits.getLastD (if s.session.driveState = .released then true else s.pins.swdioOut) }
          session := { s.session with driveState := .driven }
          linkRegs := { s.linkRegs with shift := sh, bitcnt := n }
          trace := s.trace ++ entryTurn s ++ wEvents bits } := by
  obtain ⟨sh, n, rfl⟩ := h
  exact ⟨sh, n, by rw [sendBits_quiet bits hq]; rfl⟩

/-! ### The three sequences -/

theorem sends_lineReset (s : State) : Sends (resetBits s.cfg) s (lineReset s) := ⟨_, _, rfl⟩

theorem Sends.lineReset {bits : List Bool} {s t : State} (h : Sends bits s t) :
    Sends (bits ++ resetBits s.cfg) s (Machine.lineReset t) := by
  rw [← h.cfg]
  exact h.trans (sends_lineReset t)

/-- A value of fewer than 32 bits is sent by itself. -/
theorem sends_extended {w n : Nat} (v : BitVec w) (h : n ≤ 32) (s : State) :
    Sends (lsbBits v n) s (writeBits (v.setWidth 32) n s) := by
  rw [← lsbBits_setWidth v h]
  exact sends_writeBits _ _ s

theorem sends_jtagToSwdSequence (s : State) : Sends (selectBits s.cfg) s (jtagToSwdSequence s) :=
  (sends_extended s.cfg.wire.jtagToSwdPattern (by omega) s).lineReset

/-- An alert word is sent most significant bit first (R115, R146). -/
theorem sends_alertWord (w : Word) (s : State) : Sends (msbBits w) s (writeBits (bitReverse32 w) 32 s) := by
  rw [← lsbBits_bitReverse32]
  exact sends_writeBits _ _ s

/-- The wake is its parts one after the other (R114, R146). -/
theorem sends_dormantWakeSequence (s : State) : Sends (wakeBits s.cfg) s (dormantWakeSequence s) := by
  have hhigh := sends_sendBits (List.replicate s.cfg.wire.wakeHighCycles true) s
  have halert := (((hhigh.trans (sends_alertWord s.cfg.wire.alertWord0 _)).trans
    (sends_alertWord s.cfg.wire.alertWord1 _)).trans (sends_alertWord s.cfg.wire.alertWord2 _)).trans
    (sends_alertWord s.cfg.wire.alertWord3 _)
  have hlow := halert.trans (sends_sendBits (List.replicate s.cfg.wire.wakeLowCycles false) _)
  exact (hlow.trans (sends_extended s.cfg.wire.activationCode (by omega) _)).lineReset

/-- A sequence row and the operation of the same name send the sequence's bits (R112 to R114; log 1). -/
theorem exec_sends {i : Instr} {s : State} {bits : List Bool} (h : sequenceOf s.cfg i = some bits) :
    ∃ t, exec i s = .next (respondDone t) ∧ Sends bits s t := by
  cases i with
  | lineReset | seqLineReset => cases h; exact ⟨_, rfl, sends_lineReset s⟩
  | jtagToSwdSequence | seqJtagToSwd => cases h; exact ⟨_, rfl, sends_jtagToSwdSequence s⟩
  | dormantWakeSequence | seqDormantWake => cases h; exact ⟨_, rfl, sends_dormantWakeSequence s⟩
  | _ => cases h

/-- Settles O15: whatever its parts, a sequence is one sending of its bits. -/
theorem fixedSequencesEffect : Obligations.FixedSequencesEffect := by
  intro i s bits hq hbits
  obtain ⟨t, hexec, hsends⟩ := exec_sends hbits
  obtain ⟨sh, n, rfl⟩ := hsends.eq_of_quiet hq
  exact ⟨_, hexec, ⟨rfl, rfl⟩, rfl, rfl, rfl, rfl, rfl, rfl, ⟨rfl, rfl, rfl, rfl, rfl, rfl⟩, rfl⟩

/-! ### The sequences at R7's values -/

/-- From a parked line a sequence puts its bits on the wire and nothing else. -/
theorem trace_of_sequence {i : Instr} {s : State} {bits : List Bool} (hp : Parked s)
    (h : sequenceOf s.cfg i = some bits) : ∃ t, exec i s = .next t ∧ t.trace = s.trace ++ wEvents bits := by
  obtain ⟨t, hexec, -, htrace, -⟩ := fixedSequencesEffect i s bits hp.1 h
  rw [entryTurn_parked hp, List.append_nil] at htrace
  exact ⟨t, hexec, htrace⟩

/-- The selection alert as one value of 128 bits is its four words, each most significant bit first (R115). -/
theorem alert_eq_words : lsbBits (0x19BC0EA2E3DDAFE986852D956209F392#128) 128
    = msbBits 0x49CF9046#32 ++ msbBits 0xA9B4A161#32 ++ msbBits 0x97F5BBC7#32 ++ msbBits 0x45703D98#32 := by
  decide +kernel

/-- Settles O16, by the sequences' bits at R7's values. -/
theorem fixedSequenceBits : Obligations.FixedSequenceBits := by
  intro s hp hw sends reset magic alert wake
  have hreset : resetBits s.cfg = reset := by rw [resetBits, hw]; rfl
  have hmagic : magic = lsbBits 0xE79E#16 16 := by decide
  have hcode : [false, true, false, true, true, false, false, false] = lsbBits 0x1A#8 8 := by decide
  have hselect : selectBits s.cfg = magic ++ reset := by rw [selectBits, hreset, hw, hmagic]; rfl
  have hwake : wakeBits s.cfg = wake := by
    simp only [wakeBits, hreset, hw, wake, alert, alert_eq_words, hcode, List.append_assoc]
    rfl
  refine ⟨trace_of_sequence hp (congrArg some hreset), trace_of_sequence hp (congrArg some hreset),
    trace_of_sequence hp (congrArg some hselect), trace_of_sequence hp (congrArg some hselect),
    trace_of_sequence hp (congrArg some hwake), trace_of_sequence hp (congrArg some hwake), hmagic, alert_eq_words, hcode,
    ?_, ?_, ?_⟩
  all_goals
    rw [pulses_wEvents]
    simp [reset, magic, wake, alert]

end Sys2Proof.Machine

/-! ## Frames, whatever the line shows (R102, R103, R197) -/

namespace Sys2Proof.Machine

@[simp] theorem respond_linkRegs (r : Res (Option Word)) : (respond r).linkRegs = r.2.linkRegs := by
  obtain ⟨c | (_ | v), s⟩ := r <;> rfl

/-! ### The acknowledgement code stays until the next transfer (R192) -/

theorem sample_linkRegs (s : State) : (sample s).2.linkRegs = s.linkRegs := by
  unfold sample
  split
  · rfl
  · split <;> rfl

theorem recvAll_linkRegs (n : Nat) (s : State) : (recvAll n s).2.linkRegs = s.linkRegs := by
  induction n generalizing s with
  | zero => rfl
  | succ n ih => exact (ih _).trans (sample_linkRegs s)

theorem readBits_ack (n : Nat) (s : State) : (readBits n s).2.linkRegs.ack = s.linkRegs.ack := by
  have hregs : (ensureReleased s).linkRegs = s.linkRegs := by
    unfold ensureReleased
    split <;> rfl
  simp [readBits, recvAll_linkRegs, hregs]

theorem readDataPhase_ack (s : State) : (readDataPhase s).2.2.linkRegs.ack = s.linkRegs.ack := by
  simp only [readDataPhase]
  rw [idleBit_eq rfl]
  simp [turnaround_eq, readBits_ack]

/-! ### The pulses of a frame -/

@[simp] theorem pulses_nil : pulses [] = 0 := rfl
@[simp] theorem pulses_cons_w (b : Bool) (es : List Event) : pulses (.w b :: es) = pulses es + 1 := rfl
@[simp] theorem pulses_cons_r (b : Bool) (es : List Event) : pulses (.r b :: es) = pulses es + 1 := rfl
@[simp] theorem pulses_cons_t (b : Bool) (es : List Event) : pulses (.t b :: es) = pulses es + 1 := rfl
@[simp] theorem pulses_cons_delay (p : DelayName) (es : List Event) : pulses (.delay p :: es) = pulses es := rfl

@[simp] theorem count_t_wEvents (b : Bool) (bs : List Bool) : (wEvents bs).count (.t b) = 0 := by
  simp [wEvents, List.count_eq_zero]

@[simp] theorem count_t_rEvents (b : Bool) (bs : List Bool) : (rEvents bs).count (.t b) = 0 := by
  simp [rEvents, List.count_eq_zero]

/-- The shape of a frame's events by its acknowledgement: 47 or 46 pulses, one turnaround each way (R102, R103). -/
def FrameShape (cfg : Params) (ack : BitVec 3) (es : List Event) : Prop :=
  pulses es = (if ack = cfg.engine.ackOk then 47 else 46) ∧ es.count (.t false) = 1 ∧ es.count (.t true) = 1

theorem FrameShape.pulses_le {cfg : Params} {ack : BitVec 3} {es : List Event} (h : FrameShape cfg ack es) :
    pulses es ≤ 47 := by
  rw [h.1]
  split <;> omega

theorem frameShape_okRead (cfg : Params) (a : Addr4) (p : Bool) (d : Word) (par : Bool) :
    FrameShape cfg cfg.engine.ackOk (okReadEvents cfg a p d par) := by
  simp [FrameShape, okReadEvents, headEvents]

theorem frameShape_okWrite (cfg : Params) (a : Addr4) (p : Bool) (d : Word) :
    FrameShape cfg cfg.engine.ackOk (okWriteEvents cfg a p d) := by
  simp [FrameShape, okWriteEvents, headEvents]

theorem frameShape_notOk {cfg : Params} {ack : BitVec 3} (h : ack ≠ cfg.engine.ackOk) (a : Addr4) (p r : Bool) :
    FrameShape cfg ack (notOkEvents cfg a p r ack) := by
  simp [FrameShape, notOkEvents, headEvents, h]

/-! ### One transfer -/

/-- The request and the acknowledgement put the frame's head on the wire, with the code that stands in `ACK` (R191, R192). -/
theorem acked_any (a : Addr4) (p r : Bool) (s : State) {acked : BitVec 3 × State}
    (h : ackPhase (requestPhase a p r (s.setLock true)) = acked) :
    acked.2.trace = s.trace ++ entryTurn s ++ headEvents a p r acked.1 ∧ acked.2.linkRegs.ack = acked.1
      ∧ acked.2.cfg = s.cfg ∧ acked.2.pins.swdioOe = false ∧ acked.2.session.driveState = .released := by
  obtain ⟨oe, sh, hreq⟩ := requestPhase_eq a p r (s.setLock true)
  have hdriven : (requestPhase a p r (s.setLock true)).session.driveState = .driven := by rw [hreq]
  obtain ⟨htrace, hoe, hrel⟩ := ackPhase_any hdriven
  have hcfg := ((wired_setLock true s).trans <| (wired_requestPhase a p r _).trans (wired_ackPhase _)).cfg
  subst h
  refine ⟨?_, rfl, hcfg, hoe, hrel⟩
  rw [htrace, hreq]
  simp [entryTurn_setLock, headEvents]

theorem dataPhase_notOk {cfg : Params} {ack : BitVec 3} (h : ack ≠ cfg.engine.ackOk) (r : Bool) (w : Word) (s : State) :
    dataPhase r w (decodeAck cfg ack) s = (decodeAck cfg ack, 0#32, notOkTail s) := by
  rw [decodeAck_notOk h]
  split
  · rfl
  · split <;> rfl

/-- What follows the acknowledgement makes the frame of that code, and leaves the code in `ACK` (R193 to R195). -/
theorem dataPhase_any (a : Addr4) (p r : Bool) (w : Word) (ack : BitVec 3) {s : State}
    (hoe : s.pins.swdioOe = false) (hrel : s.session.driveState = .released) :
    ∃ es, (dataPhase r w (decodeAck s.cfg ack) s).2.2.trace = s.trace ++ es
      ∧ (dataPhase r w (decodeAck s.cfg ack) s).2.2.linkRegs.ack = s.linkRegs.ack
      ∧ FrameShape s.cfg ack (headEvents a p r ack ++ es) := by
  by_cases hok : ack = s.cfg.engine.ackOk
  · have hdec : decodeAck s.cfg ack = .ok := by simp [decodeAck, hok]
    rw [hdec, hok]
    cases r with
    | true =>
      obtain ⟨par, -, htrace⟩ := readDataPhase_any hrel hoe
      simp only [List.append_assoc] at htrace
      refine ⟨_, htrace, readDataPhase_ack s, ?_⟩
      simpa [okReadEvents] using frameShape_okRead s.cfg a p (readDataPhase s).2.1 par
    | false =>
      simp only [dataPhase, Bool.false_eq_true, if_false, writeDataPhase_eq, List.append_assoc]
      refine ⟨_, rfl, trivial, ?_⟩
      simpa [okWriteEvents] using frameShape_okWrite s.cfg a p w
  · rw [dataPhase_notOk hok, notOkTail_eq hrel]
    simp only [List.append_assoc]
    refine ⟨_, rfl, trivial, ?_⟩
    simpa [notOkEvents] using frameShape_notOk hok a p r

/-- Whatever the line shows, a transfer is a turnaround that may be due and one frame, told by the code read (R102, R190). -/
theorem rawTransfer_any (a : Addr4) (p r : Bool) (w : Word) (s : State) :
    ∃ es, (rawTransfer a p r w s).st.trace = s.trace ++ entryTurn s ++ es
      ∧ FrameShape s.cfg (rawTransfer a p r w s).st.linkRegs.ack es := by
  generalize hacked : ackPhase (requestPhase a p r (s.setLock true)) = acked
  obtain ⟨htrace, hack, hcfg, hoe, hrel⟩ := acked_any a p r s hacked
  obtain ⟨es, hes, hkept, hshape⟩ := dataPhase_any a p r w acked.1 hoe hrel
  rw [hcfg] at hes hkept hshape
  refine ⟨headEvents a p r acked.1 ++ es, ?_, ?_⟩
  · simp [rawTransfer, hacked, hes, htrace]
  · simpa [rawTransfer, hacked, hkept, hack] using hshape

/-- Settles O21: a row is the transfer, and the transfer one frame. -/
theorem frameLengthFollowsAck : Obligations.FrameLengthFollowsAck := by
  intro i s t a p r w hi hexec
  obtain ⟨v, hv⟩ := respondXfer_eq r (rawTransfer a p r w s)
  obtain rfl : respond (.ok v, (rawTransfer a p r w s).st) = t := by simpa [exec_transfer hi, hv] using hexec
  obtain ⟨es, htrace, hpulses, hrelease, hdrive⟩ := rawTransfer_any a p r w s
  exact ⟨es, by simpa using htrace, by simpa using hpulses, hrelease, hdrive⟩

/-! ### The retry loop (R197) -/

/-- At most `n` pulses from `s` to `t` (R38). -/
def PulsesWithin (n : Nat) (s t : State) : Prop :=
  ∃ es, t.trace = s.trace ++ es ∧ pulses es ≤ n

theorem PulsesWithin.of_trace_eq {s t : State} (h : t.trace = s.trace) : PulsesWithin 0 s t :=
  ⟨[], by simp [h], le_rfl⟩

theorem PulsesWithin.mono {m n : Nat} {s t : State} (h : PulsesWithin m s t) (hmn : m ≤ n) : PulsesWithin n s t := by
  obtain ⟨es, hes, hle⟩ := h
  exact ⟨es, hes, hle.trans hmn⟩

theorem PulsesWithin.trans {m n : Nat} {s t u : State} (h : PulsesWithin m s t) (k : PulsesWithin n t u) :
    PulsesWithin (m + n) s u := by
  obtain ⟨es, hes, hm⟩ := h
  obtain ⟨fs, hfs, hn⟩ := k
  refine ⟨es ++ fs, by rw [hfs, hes, List.append_assoc], ?_⟩
  rw [pulses_append]
  omega

theorem pulsesWithin_delay (p : DelayName) (s : State) : PulsesWithin 0 s (delay p s) := ⟨[.delay p], rfl, le_rfl⟩

/-- From a parked line a transfer is one frame, of at most 47 pulses (R102). -/
theorem pulsesWithin_rawTransfer (a : Addr4) (p r : Bool) (w : Word) {s : State} (hp : Parked s) :
    PulsesWithin 47 s (rawTransfer a p r w s).st := by
  obtain ⟨es, htrace, hshape⟩ := rawTransfer_any a p r w s
  rw [entryTurn_parked hp, List.append_nil] at htrace
  exact ⟨es, htrace, hshape.pulses_le⟩

theorem pulsesWithin_clearSticky {s : State} (hp : Parked s) : PulsesWithin 47 s (clearSticky s) :=
  pulsesWithin_rawTransfer _ _ _ _ hp

/-- Every attempt is one frame and at most one recovery frame (R197, R202). -/
theorem pulsesWithin_retryLoop (a : Addr4) (p r : Bool) (w : Word) (n k : Nat) {s : State} (hp : Parked s) :
    PulsesWithin (94 * n) s (retryLoop a p r w n k s).2 := by
  induction n generalizing k s with
  | zero => exact .of_trace_eq rfl
  | succ n ih =>
    have hsent := pulsesWithin_rawTransfer a p r w hp
    have hparked := rawTransfer_parked a p r w s
    unfold retryLoop
    generalize rawTransfer a p r w s = x at hsent hparked ⊢
    dsimp only
    have again {m : Nat} {u : State} (hm : m ≤ 47) (hu : PulsesWithin m x.st u) (hpu : Parked u) :
        PulsesWithin (94 * (n + 1)) s (retryLoop a p r w n (k + 1) u).2 :=
      ((hsent.trans hu).trans (ih (k + 1) hpu)).mono (by omega)
    have noted (kind : FailKind) : PulsesWithin 0 x.st
        (setLast kind (x.st.mapLinkRegs fun l => { l with attempt := BitVec.ofNat 4 (k + 1) })) := .of_trace_eq rfl
    have cleared (kind : FailKind) := (noted kind).trans (pulsesWithin_clearSticky hparked)
    split
    · exact (hsent.trans (.of_trace_eq rfl)).mono (by omega)
    · exact again (by omega) ((noted .wait).trans (pulsesWithin_delay _ _)) hparked
    · exact again (by omega) (cleared .fault) (rawTransfer_parked _ _ _ _ _)
    · exact again (by omega) (cleared .parity) (rawTransfer_parked _ _ _ _ _)
    · exact again (by omega) (noted .other) hparked

theorem pulsesWithin_retry (a : Addr4) (p r : Bool) (w : Word) {s : State} (hp : Parked s) :
    PulsesWithin (94 * s.cfg.engine.maxAttempts) s (retry a p r w s).2 :=
  pulsesWithin_retryLoop a p r w s.cfg.engine.maxAttempts 0 (s := s.mapLinkRegs fun r => { r with attempt := 0#4 }) hp

/-- What `try` goes on with adds its own pulses (R12). -/
theorem PulsesWithin.tryThen {m n : Nat} {α β : Type} {s : State} {x : Res α} {f : α → State → Res β}
    (h : PulsesWithin m s x.2) (hf : ∀ v, PulsesWithin n x.2 (f v x.2).2) :
    PulsesWithin (m + n) s (Machine.tryThen x f).2 := by
  obtain ⟨c | v, u⟩ := x
  · exact h.mono (by omega)
  · exact h.trans (hf v)

/-- A posted read has two budgets (R201, D17). -/
theorem pulsesWithin_apRead (a : Addr4) {s : State} (hp : Parked s) :
    PulsesWithin (188 * s.cfg.engine.maxAttempts) s (apRead a s).2 := by
  have hran := ran_retry a true true 0#32 s
  have hread : PulsesWithin (94 * s.cfg.engine.maxAttempts) (retry a true true 0#32 s).2
      (dpRead (retry a true true 0#32 s).2.cfg.engine.dpRdbuff (retry a true true 0#32 s).2).2 := by
    rw [← hran.wired.cfg]
    exact pulsesWithin_retry _ _ _ _ (hran.parked hp)
  have hboth := (pulsesWithin_retry a true true 0#32 hp).tryThen (f := fun _ u => dpRead u.cfg.engine.dpRdbuff u)
    fun _ => hread
  exact hboth.mono (by omega)

theorem pulsesWithin_write (a : Addr4) (p : Bool) (w : Word) {s : State} (hp : Parked s) :
    PulsesWithin (94 * s.cfg.engine.maxAttempts) s
      (Machine.tryThen (retry a p false w s) fun _ u => ((.ok (), u) : Res Unit)).2 :=
  (pulsesWithin_retry a p false w hp).tryThen fun _ => .of_trace_eq rfl

/-- The response of an operation adds no pulse (R124). -/
theorem PulsesWithin.of_exec {n : Nat} {i : Instr} {s t : State} {x : Res (Option Word)} (hx : PulsesWithin n s x.2)
    (hi : exec i s = .next (respond x)) (h : exec i s = .next t) : PulsesWithin n s t := by
  obtain rfl : respond x = t := by simpa [hi] using h
  obtain ⟨es, hes, hle⟩ := hx
  exact ⟨es, by simpa using hes, hle⟩

/-- Settles O27, by the bound of the retry loop. -/
theorem everyAccessIsBounded : Obligations.EveryAccessIsBounded := by
  intro s t addr v hp
  refine ⟨?_, (pulsesWithin_apRead addr hp).of_exec rfl⟩
  rintro (h | h | h)
  · exact (pulsesWithin_retry addr false true 0#32 hp).of_exec rfl h
  · exact (pulsesWithin_write addr false v hp).of_exec rfl h
  · exact (pulsesWithin_write addr true v hp).of_exec rfl h

end Sys2Proof.Machine

/-! ## Frame rows and acknowledgement rows (R102, R192; log 1) -/

namespace Sys2Proof.Machine

/-! ### The response of a transfer -/

theorem respond_xferStatus (r : Res (Option Word)) : (respond r).ports.xferStatus = r.2.ports.xferStatus := by
  obtain ⟨c | (_ | v), s⟩ := r <;> rfl

/-- A transfer responds without an error, shows its frame and its status, and keeps the rest (R111, R150, R190). -/
theorem respondXfer_afterTransfer {r : Bool} {d : Word} {s : State} {lr : LinkRegs} {st : XferStatus}
    {rest : List (Option Bool)} {es : List Event} {t : State}
    (ht : t = respondXfer r { status := st, rdata := d, st := afterTransfer s lr st rest es })
    (hattempt : lr.attempt = s.linkRegs.attempt) (hlast : lr.last = s.linkRegs.last) :
    Responded statusOk t ∧ t.trace = s.trace ++ entryTurn s ++ es ∧ t.ports.xferStatus = st ∧ TransferFrame rest s t := by
  obtain ⟨v, hv⟩ := respondXfer_eq r { status := st, rdata := d, st := afterTransfer s lr st rest es }
  rw [hv] at ht
  subst ht
  have hports := respond_hostPortsKept (.ok v, afterTransfer s lr st rest es)
  refine ⟨⟨respond_rspValid _, respond_status_ok v _⟩, by simp, respond_xferStatus _, ?_⟩
  exact ⟨by simp, by simp, by simp [SessionKept], by simp, hports, by simp, by simpa using hattempt, by simpa using hlast⟩

/-- The data of an OK read is delivered (R123, R190). -/
theorem respondXfer_rspData_ok {x : Xfer} (h : x.status = .ok) : (respondXfer true x).ports.rspData = x.rdata := by
  rw [respondXfer, if_pos ⟨h, rfl⟩]
  rfl

/-- What another read shows in its place is a free value (log 4). -/
theorem respondXfer_rspData_free {x : Xfer} {r : Bool} (h : x.status ≠ .ok) :
    (respondXfer r x).ports.rspData = Config.freeWord x.st.draws := by
  rw [respondXfer, if_neg fun hok => h hok.1]
  rfl

/-! ### Frame rows -/

theorem lineShows_answer (bits : List Bool) (s : State) :
    LineShows bits [] (s.mapInputs fun x => { x with line := bits.map some }) := by
  simp [LineShows]

/-- A transfer answered with exactly its own bits leaves the line's pending bits as they were (log 1). -/
theorem runFrame_of_transfer {a : Addr4} {p r : Bool} {w d : Word} {bits : List Bool} {s : State} {st : XferStatus}
    {lr : LinkRegs} {es : List Event}
    (h : rawTransfer a p r w (s.mapInputs fun x => { x with line := bits.map some })
      = { status := st, rdata := d
          st := afterTransfer (s.mapInputs fun x => { x with line := bits.map some }) lr st [] es }) :
    runFrame a p r w bits s
      = respondXfer r { status := st, rdata := d, st := afterTransfer s lr st s.inputs.line es } := by
  unfold runFrame answered runRequest
  rw [h]
  unfold respondXfer
  split <;> rfl

theorem exec_frameReadOk (isAP : Bool) (reg : BitVec 2) (data : Word) (par : Bool) (s : State) :
    exec (.frameReadOk isAP reg data par) s
      = .next (runFrame (regAddr reg) isAP true 0#32 (okReadAnswer s.cfg data par) s) := rfl

/-- Settles O22: each frame row is the transfer its bits answer. -/
theorem frameRows : Obligations.FrameRows := by
  intro s isAP isRead reg data par ack
  refine ⟨?_, ?_, fun hack => ?_⟩
  · have hrun := runFrame_of_transfer (rawTransfer_read (regAddr reg) isAP 0#32 data par [] _
      (lineShows_answer (okReadAnswer s.cfg data par) s))
    obtain ⟨hresp, htrace, hstatus, hframe⟩ := respondXfer_afterTransfer hrun rfl rfl
    refine ⟨_, exec_frameReadOk isAP reg data par s, hresp, htrace, hstatus, fun hpar => ?_, fun hpar => ?_, hframe⟩
    · rw [hrun, respondXfer_rspData_ok (if_pos hpar)]
    · rw [hrun, respondXfer_rspData_free (by simp [hpar])]
  · have hrun := runFrame_of_transfer (rawTransfer_write (regAddr reg) isAP data [] _
      (lineShows_answer (lsbBits s.cfg.engine.ackOk 3) s))
    obtain ⟨hresp, htrace, hstatus, hframe⟩ := respondXfer_afterTransfer hrun rfl rfl
    exact ⟨_, rfl, hresp, htrace, hstatus, hframe⟩
  · have hrun := runFrame_of_transfer (rawTransfer_notOk (regAddr reg) isAP isRead 0#32 ack [] _ hack
      (lineShows_answer (lsbBits ack 3) s))
    obtain ⟨hresp, htrace, hstatus, hframe⟩ := respondXfer_afterTransfer hrun rfl rfl
    exact ⟨_, rfl, hresp, htrace, hstatus.trans (decodeAck_notOk hack), hframe⟩

/-! ### Acknowledgement rows -/

/-- Reading from a quiet state, whichever way the line stood (R37, R142). -/
theorem readBits_quiet_shows {s : State} (bits : List Bool) (rest : List (Option Bool)) (hq : Quiet s)
    (h : LineShows bits rest s) :
    readBits bits.length s
      = (ofLsbBits 32 bits,
          { s with
            pins :=
              { s.pins with
                swdioOe := false
                swdioOut := if s.session.driveState = .driven then true else s.pins.swdioOut }
            session := { s.session with driveState := .released }
            linkRegs := { s.linkRegs with shift := ofLsbBits 32 bits, bitcnt := 0#6 }
            inputs := { s.inputs with line := rest }
            trace := s.trace ++ exitTurn s ++ rEvents bits }) := by
  obtain ⟨hclk, hoe, -⟩ := hq
  cases hd : s.session.driveState with
  | driven =>
    rw [readBits_driven_shows bits rest hd h]
    obtain ⟨_, ⟨c, o, e, n⟩, ⟨d, _, _, _, _, _, _⟩, _⟩ := s
    simp_all [exitTurn]
  | released =>
    rw [hd] at hoe
    rw [readBits_released_shows bits rest hd hoe.symm hclk h]
    obtain ⟨_, ⟨c, o, e, n⟩, ⟨d, _, _, _, _, _, _⟩, _⟩ := s
    simp_all [exitTurn, DriveState.oe]

/-- The acknowledgement phase from a quiet state (R192). -/
theorem ackPhase_quiet {s : State} (ack : BitVec 3) (rest : List (Option Bool)) (hq : Quiet s)
    (h : LineShows (lsbBits ack 3) rest s) :
    ∃ sh,
      ackPhase s
        = (ack,
            { s with
              pins :=
                { s.pins with
                  swdioOe := false
                  swdioOut := if s.session.driveState = .driven then true else s.pins.swdioOut }
              session := { s.session with driveState := .released }
              linkRegs := { s.linkRegs with ack := ack, shift := sh, bitcnt := 0#6 }
              inputs := { s.inputs with line := rest }
              trace := s.trace ++ exitTurn s ++ rEvents (lsbBits ack 3) }) := by
  have hread := readBits_quiet_shows (lsbBits ack 3) rest hq h
  rw [lsbBits_length] at hread
  have hcode : (ofLsbBits 32 (lsbBits ack 3)).setWidth 3 = ack := by
    rw [ofLsbBits_lsbBits_setWidth, BitVec.setWidth_setWidth_of_le _ (by omega), BitVec.setWidth_eq]
  refine ⟨ofLsbBits 32 (lsbBits ack 3), ?_⟩
  simp only [ackPhase, hread, hcode]
  rfl

/-- Settles O23: an acknowledgement row is the phase between two turns of the line, and it leaves the line released. -/
theorem acknowledgementRows : Obligations.AcknowledgementRows := by
  intro i k s hi hq
  obtain ⟨sh, hphase⟩ := ackPhase_quiet (s := s.mapInputs fun x => { x with line := (lsbBits k 3).map some }) k [] hq
    (lineShows_answer _ s)
  obtain ⟨hclk, -, hlock⟩ := hq
  refine ⟨_, exec_ack hi s, ?_⟩
  unfold runAck answered
  simp only [hphase]
  exact ⟨⟨rfl, rfl⟩, rfl, rfl, rfl, rfl, rfl, rfl, rfl, rfl, ⟨hclk, rfl, hlock⟩, ⟨rfl, rfl, rfl, rfl, rfl, rfl⟩, rfl⟩

end Sys2Proof.Machine

/-! ## Written words, refused codes and progress upcalls (R119, R123, R126) -/

namespace Sys2Proof.Machine

/-! ### Codes the command port refuses (R119) -/

/-- The codes the command port accepts (R123). -/
theorem externalOp_iff (op : BitVec 8) : externalOp op = true ↔
    op ∈ [0x00#8, 0x10#8, 0x11#8, 0x12#8, 0x13#8, 0x32#8, 0x33#8, 0x42#8, 0x43#8, 0x44#8, 0x45#8, 0x46#8, 0x51#8] := by
  simp only [List.mem_cons, List.not_mem_nil, or_false]
  constructor
  · intro h
    unfold externalOp at h
    split at h
    case h_14 => cases h
    all_goals
      rename_i hop
      simp [BitVec.toNat_eq, hop]
  · rintro (rfl | rfl | rfl | rfl | rfl | rfl | rfl | rfl | rfl | rfl | rfl | rfl | rfl) <;> rfl

/-- A code the port does not accept is answered without running anything (R119, R321). -/
theorem step_of_refused {s : State} {c : HostCall} {rest : List HostCall} {cmd : Command}
    (hs : s.inputs.stream = c :: rest) (hb : s.session.busy = false) (hc : c.request = .port cmd)
    (hop : externalOp cmd.op = false) : step s = .next (s.rejectOp c rest) := by
  have hd : decode c.request = .error (.notAccepted cmd.op) := by simp [decode, hc, hop]
  simp [step, hs, hb, hd]

/-- Settles O2: the port's list, and the state `rejectOp` leaves. -/
theorem portRefusesOtherCodes : Obligations.PortRefusesOtherCodes :=
  ⟨externalOp_iff, fun _ _ _ _ hs hb hc hop =>
    ⟨_, step_of_refused hs hb hc hop, ⟨rfl, rfl⟩, rfl, rfl, rfl, rfl, rfl, rfl, rfl, rfl⟩⟩

/-! ### Written words -/

/-- Settles O7, word by word, by evaluation of the decoder. -/
theorem decodesWrittenWords : Obligations.DecodesWrittenWords := by
  refine ⟨?_, ?_, ?_, ?_, ?_, ?_, ?_, ?_, ?_, ?_, ?_, ?_⟩
  all_goals decide +kernel

/-! ### Progress upcalls (R126) -/

theorem progress_callback {s : State} (h : s.inputs.callback = true) (done total : Word) (label : ProgLabel) :
    progress done total label s
      = (s.emit (.prog done total label)).mapPorts fun p =>
          { p with progValid := true, progDone := done, progTotal := total, progLabel := label } := by
  rw [progress, if_pos h]

theorem progress_silent {s : State} (h : s.inputs.callback = false) (done total : Word) (label : ProgLabel) :
    progress done total label s = s.emit (.prog done total label) := by
  rw [progress, if_neg (by simp [h])]

/-- Settles O52, with a callback and without one. -/
theorem progressUpcall : Obligations.ProgressUpcall := by
  refine ⟨fun done total label s => ?_, fun _ _ _ => rfl, rfl, rfl, rfl, rfl⟩
  cases h : s.inputs.callback with
  | true =>
    rw [progress_callback h]
    exact ⟨rfl, fun _ => rfl, nofun, rfl⟩
  | false =>
    rw [progress_silent h]
    exact ⟨rfl, nofun, fun _ => rfl, rfl⟩

end Sys2Proof.Machine

/-! # The link family (`40_bit_link.md`): what each operation of the Bit-Level Link does and leaves unchanged -/

/-! ## The exclusive or of a word's bits (R147) -/

namespace Sys2Proof.Machine

/-- The exclusive or of the bits 0 to `n - 1` (R147). -/
def xorBits (bit : Nat → Bool) (n : Nat) : Bool :=
  (List.range n).foldl (fun acc k => Bool.xor acc (bit k)) false

@[simp] theorem xorBits_zero (bit : Nat → Bool) : xorBits bit 0 = false := rfl

theorem xorBits_succ (bit : Nat → Bool) (n : Nat) : xorBits bit (n + 1) = Bool.xor (xorBits bit n) (bit n) := by
  simp [xorBits, List.range_succ]

theorem xorBits_congr {f g : Nat → Bool} {n : Nat} (h : ∀ k < n, f k = g k) : xorBits f n = xorBits g n := by
  induction n with
  | zero => rfl
  | succ n ih => rw [xorBits_succ, xorBits_succ, ih fun k hk => h k (by omega), h n (by omega)]

theorem xorBits_xor (f g : Nat → Bool) (n : Nat) :
    xorBits (fun k => Bool.xor (f k) (g k)) n = Bool.xor (xorBits f n) (xorBits g n) := by
  induction n with
  | zero => rfl
  | succ n ih =>
    rw [xorBits_succ, xorBits_succ, xorBits_succ, ih, Bool.xor_assoc, Bool.xor_assoc, Bool.xor_left_comm (xorBits g n)]

theorem xorBits_add (bit : Nat → Bool) (n m : Nat) :
    xorBits bit (n + m) = Bool.xor (xorBits bit n) (xorBits (fun k => bit (n + k)) m) := by
  induction m with
  | zero => simp
  | succ m ih => rw [← Nat.add_assoc, xorBits_succ, xorBits_succ, ih, Bool.xor_assoc]

/-- One fold of R147: the halves of a word combined have the parity of the word. -/
theorem xorBits_fold {w : Nat} (v : BitVec w) {n : Nat} (h : w = n + n) :
    xorBits ((v >>> n).setWidth n ^^^ v.setWidth n).getLsbD n = xorBits v.getLsbD w := by
  subst h
  have hbit : ∀ k < n, ((v >>> n).setWidth n ^^^ v.setWidth n).getLsbD k
      = Bool.xor (v.getLsbD (n + k)) (v.getLsbD k) := by
    intro k hk
    simp [hk]
  rw [xorBits_congr hbit, xorBits_xor, Bool.xor_comm, ← xorBits_add]

/-- The table entry of four bits is their exclusive or (R147). -/
theorem parityLut_eq_xorBits (x : BitVec 4) : parityLut x = xorBits x.getLsbD 4 := by
  rw [parityLut_eq_xor]
  simp [xorBits_succ]

/-- Three folds and the table take the exclusive or of all 32 bits (R147). -/
theorem parity32_eq_xorBits (v : Word) : parity32 v = xorBits v.getLsbD 32 := by
  rw [parity32, parityLut_eq_xorBits, xorBits_fold _ rfl, xorBits_fold _ rfl, xorBits_fold _ rfl]

end Sys2Proof.Machine

/-! ## The operations (R140 to R143, R147) -/

namespace Sys2Proof.Machine

/-- A direct call of an internal code runs the operation; the command port does not accept the code (R100, R119). -/
theorem decode_internal {c : Command} {op : BitVec 8} {i : Instr} (hop : c.op = op) (hint : externalOp op = false)
    (h : decodeCommand c = .ok i) : decode (.direct c) = .ok i ∧ decode (.port c) = .error (.notAccepted op) := by
  subst hop
  exact ⟨h, by simp [decode, hint]⟩

theorem decodeCount_of_le {len : Word} (h : len.toNat ≤ 32) (k : BitVec 6 → Instr) :
    decodeCount len k = .ok (k (len.setWidth 6)) :=
  if_pos h

/-! ### The turnaround that is due before sampling (R142) -/

/-- Whichever way the line stood, it is released, by one turnaround if it was driven (R37, R142). -/
theorem ensureReleased_quiet {s : State} (hq : Quiet s) :
    ensureReleased s
      = { s with
          pins :=
            { s.pins with
              swdioOe := false
              swdioOut := if s.session.driveState = .driven then true else s.pins.swdioOut }
          session := { s.session with driveState := .released }
          trace := s.trace ++ exitTurn s } := by
  obtain ⟨hclk, hoe, -⟩ := hq
  cases hd : s.session.driveState with
  | driven =>
    rw [ensureReleased_driven hd, turnaround_eq]
    simp [exitTurn, hd, hclk]
  | released =>
    rw [hd] at hoe
    rw [ensureReleased_released hd]
    obtain ⟨_, ⟨c, o, e, n⟩, ⟨d, _, _, _, _, _, _⟩, _⟩ := s
    simp_all [exitTurn, DriveState.oe]

/-- Reading from a quiet state, whatever the line shows: the turnaround that is due, then `n` samples, the driven ones as driven;
the undriven ones are draws, each counted (R142, R23; log 3). -/
theorem readBits_quiet_any (n : Nat) {s : State} (hq : Quiet s) :
    ∃ bs k, bs.length = n
      ∧ (∀ j b, j < n → s.inputs.line[j]? = some (some b) → bs[j]? = some b)
      ∧ readBits n s
          = (ofLsbBits 32 bs,
              { s with
                pins :=
                  { s.pins with
                    swdioOe := false
                    swdioOut := if s.session.driveState = .driven then true else s.pins.swdioOut }
                session := { s.session with driveState := .released }
                linkRegs := { s.linkRegs with shift := ofLsbBits 32 bs, bitcnt := 0#6 }
                inputs := { s.inputs with line := s.inputs.line.drop n }
                draws := s.draws + k
                trace := s.trace ++ exitTurn s ++ rEvents bs }) := by
  have hturn := ensureReleased_quiet hq
  obtain ⟨bs, k, hlen, hbits, hrec⟩ := recvAll_any n (s := ensureReleased s) (by rw [hturn])
  refine ⟨bs, k, hlen, fun j b hj hb => hbits j b hj (by rwa [hturn]), ?_⟩
  obtain ⟨hclk, -⟩ := hq
  rw [readBits, hrec, hturn]
  simp [State.mapLinkRegs, hclk]

/-- A gathered value shows the samples, the first in bit 0 (R11, R142). -/
theorem getElem?_of_gathered {bs : List Bool} {k : Nat} (hk : k < bs.length) (h : bs.length ≤ 32) :
    bs[k]? = some ((ofLsbBits 32 bs).getLsbD k) := by
  rw [getLsbD_ofLsbBits]
  simp [hk, show k < 32 by omega]

/-! ### The statements of the link family -/

/-- Settles O13: the turnaround that is due, then the samples, from any line. -/
theorem readBitsEffect : Obligations.ReadBitsEffect := by
  refine ⟨fun c hop hlen => decode_internal hop rfl ?_, fun n s hn hq => ?_⟩
  · rw [decodeCommand, hop]
    exact decodeCount_of_le hlen _
  · obtain ⟨bs, k, hlen, hbits, hread⟩ := readBits_quiet_any n.toNat hq
    have hexec : exec (.readBits n) s = .next (respondValue (readBits n.toNat s).1 (readBits n.toNat s).2) := rfl
    rw [hread] at hexec
    exact ⟨_, bs, hexec, ⟨⟨rfl, rfl⟩, rfl⟩, hlen, hbits,
      fun j hj => getElem?_of_gathered (by omega) (by omega), rfl, rfl, rfl, rfl, rfl, rfl, ⟨rfl, rfl, rfl, rfl, rfl, rfl⟩,
      rfl⟩

/-- Settles O12: a `writeBits` is one sending of the value's low bits. -/
theorem writeBitsEffect : Obligations.WriteBitsEffect := by
  refine ⟨fun c hop hlen => decode_internal hop rfl ?_, fun v n s _ hq => ?_⟩
  · rw [decodeCommand, hop]
    exact decodeCount_of_le hlen _
  · obtain ⟨sh, m, hsent⟩ := (sends_writeBits v n.toNat s).eq_of_quiet hq
    have hexec : exec (.writeBits v n) s = .next (respondDone (writeBits v n.toNat s)) := rfl
    rw [hsent] at hexec
    exact ⟨_, hexec, ⟨rfl, rfl⟩, rfl, rfl, rfl, rfl, rfl, rfl, ⟨rfl, rfl, rfl, rfl, rfl, rfl⟩, rfl⟩

/-- Settles O17: the folds keep the exclusive or of the bits, and the call only responds. -/
theorem parityIsXorOfAllBits : Obligations.ParityIsXorOfAllBits := by
  refine ⟨parity32_eq_xorBits, parityLut_eq_xor, fun v s => ⟨_, rfl, rfl, ⟨rfl, rfl⟩, rfl⟩,
    fun c hop => decode_internal hop rfl ?_⟩
  rw [decodeCommand, hop]
  rfl

/-- The event of a pulse called alone is a pulse, whichever way the line stands (R38, R140; log 14). -/
theorem isPulse_bareEvent (s : State) : (bareEvent s).isPulse = true := by
  unfold bareEvent
  split <;> rfl

/-- Settles O11, from what one pulse leaves and what the response leaves. -/
theorem clockPulseEffect : Obligations.ClockPulseEffect := by
  intro s
  exact ⟨_, bareEvent s, rfl, ⟨rfl, rfl⟩, rfl, isPulse_bareEvent s, rfl, rfl, rfl, rfl, rfl, rfl,
    ⟨rfl, rfl, rfl, rfl, rfl, rfl⟩⟩

/-- Settles O14: the turnaround is one record update, the same in both drive states. -/
theorem turnaroundEffect : Obligations.TurnaroundEffect := by
  refine ⟨fun c hop => decode_internal hop rfl ?_, fun toWrite s => ?_⟩
  · rw [decodeCommand, hop]
    rfl
  · have hexec : exec (.turnaround toWrite) s = .next (respondDone (turnaround toWrite s)) := rfl
    rw [turnaround_eq] at hexec
    exact ⟨_, hexec, ⟨rfl, rfl⟩, rfl, rfl, rfl, rfl, rfl, rfl, rfl, ⟨rfl, rfl, rfl, rfl, rfl, rfl⟩⟩

end Sys2Proof.Machine

/-! # The connection sequencer family (`41_connection_sequencer.md`): `connect`, `disconnect`, `isConnected`, `resetTarget` -/

/-! ## Scripts of the power-up and of the identification (R170, R171, R220) -/

namespace Sys2Proof.Machine

/-! ### Rules for scripts -/

theorem Played.parked {as : List Act} {rest : List (Option Bool)} {s t : State} (h : Played as rest s t) : Parked t := by
  obtain ⟨-, -, hparked, -⟩ := h
  exact hparked

theorem Played.cfg_eq {as : List Act} {rest : List (Option Bool)} {s t : State} (h : Played as rest s t) :
    t.cfg = s.cfg := by
  obtain ⟨-, -, -, hcfg, -⟩ := h
  exact hcfg

/-- `fallBack r k`: where `r` failed, `k` goes on from the state it left (R170). -/
def fallBack {α : Type} (r : Res α) (k : State → Res α) : Res α :=
  match r with
  | (.ok a, s) => (.ok a, s)
  | (.error _, s) => k s

theorem fallBack_ok {α : Type} (a : α) (s : State) (k : State → Res α) : fallBack (.ok a, s) k = (.ok a, s) := rfl

theorem fallBack_error {α : Type} (c : ErrCode) (s : State) (k : State → Res α) : fallBack (.error c, s) k = k s := rfl

section Rules

variable {α : Type} {cfg : Params} {as bs : List Act} {f : State → Res α} {v : Except ErrCode α}

/-- An operation that moves no more of the session than the drive state and the lock ends a script with the session it began
with (R37). -/
theorem Runs.result (h : Runs cfg as f v) (hw : ∀ s, Worked s (f s).2) {s : State} {rest : List (Option Bool)}
    (hc : s.cfg = cfg) (hp : Parked s) (ha : Answers as rest s) :
    ∃ t, f s = (v, t) ∧ Played as rest s t ∧ t.session = s.session := by
  obtain ⟨hv, ht⟩ := h s rest hc hp ha
  exact ⟨(f s).2, Prod.ext hv rfl, ht, session_eq_of_parked hp ht.parked (hw s).session⟩

theorem Runs.fallBack_ok {a : α} {k : State → Res α} (h : Runs cfg as f (.ok a)) :
    Runs cfg as (fun s => fallBack (f s) k) (.ok a) := by
  intro s rest hc hp ha
  obtain ⟨hv, ht⟩ := h s rest hc hp ha
  have hf : f s = (.ok a, (f s).2) := Prod.ext hv rfl
  dsimp only
  rw [hf, Machine.fallBack_ok]
  exact ⟨rfl, ht⟩

theorem Runs.fallBack_error {c : ErrCode} {k : State → Res α} (h : Runs cfg as f (.error c)) (hk : Runs cfg bs k v) :
    Runs cfg (as ++ bs) (fun s => fallBack (f s) k) v := by
  intro s rest hc hp ha
  obtain ⟨hv, ht⟩ := h s _ hc hp ha.split
  obtain ⟨hv', hu⟩ := hk (f s).2 rest (ht.cfg_eq.trans hc) ht.parked (Answers.after ht)
  have hf : f s = (.error c, (f s).2) := Prod.ext hv rfl
  dsimp only
  rw [hf, Machine.fallBack_error]
  exact ⟨hv', ht.append hu⟩

/-- From a parked line a sending plays its bits and takes nothing off the line (R141). -/
theorem Sends.played {bits : List Bool} {s t : State} (h : Sends bits s t) (hp : Parked s) :
    Played [.send bits] s.inputs.line s t := by
  obtain ⟨sh, n, rfl⟩ := h.eq_of_quiet hp.1
  have hturn := entryTurn_parked hp
  obtain ⟨⟨hclk, -, hlock⟩, -⟩ := hp
  exact ⟨by simp [hturn, Act.events], rfl, ⟨⟨hclk, rfl, hlock⟩, rfl⟩, rfl, rfl⟩

theorem Runs.afterSends {bits : List Bool} {g : State → State} (hg : ∀ s, s.cfg = cfg → Sends bits s (g s))
    (hf : Runs cfg as f v) : Runs cfg (.send bits :: as) (fun s => f (g s)) v := by
  intro s rest hc hp ha
  have ht := (hg s hc).played hp
  have hl : s.inputs.line = (actAnswers s.cfg as).map some ++ rest := by
    simpa [Answers, LineShows, Act.answer] using ha
  rw [hl] at ht
  obtain ⟨hv, hu⟩ := hf (g s) rest (ht.cfg_eq.trans hc) ht.parked (Answers.after ht)
  exact ⟨hv, ht.append hu⟩

end Rules

/-! ### The power-up (R220) -/

theorem powerPolls_cons (cfg : Params) (p : DpPoll) {ps : List DpPoll} (h : ps ≠ []) :
    powerPolls cfg (p :: ps) = p.acts cfg cfg.engine.dpCtrlStat ++ .pause .powerupPoll :: powerPolls cfg ps := by
  cases ps with
  | nil => exact absurd rfl h
  | cons q qs => rfl

/-- One poll ends the power-up, or brings it one poll on (R220, D18, D23). -/
theorem powerUpPoll_poll {cfg : Params} (hm : 1 ≤ cfg.engine.maxAttempts) {p : DpPoll} (hp : p.possible cfg) (n : Nat)
    {s : State} {rest : List (Option Bool)} (hc : s.cfg = cfg) (hs : Parked s)
    (ha : Answers (p.acts cfg cfg.engine.dpCtrlStat) rest s) :
    ∃ t, Played (p.acts cfg cfg.engine.dpCtrlStat) rest s t
      ∧ (powered cfg p → powerUpPoll (n + 1) s = (.ok (), t))
      ∧ (¬ powered cfg p →
          powerUpPoll (n + 1) s = powerUpPoll n (delayIfMore n .powerupPoll (setPollsLeft n t))) := by
  obtain ⟨v, hrun, hvalue⟩ := p.runs hm cfg.engine.dpCtrlStat hp
  obtain ⟨hv, ht⟩ := hrun s rest hc hs ha
  have hread : dpRead s.cfg.engine.dpCtrlStat s = (v, (dpRead cfg.engine.dpCtrlStat s).2) := by
    rw [hc]
    exact Prod.ext hv rfl
  have htc := ht.cfg_eq.trans hc
  refine ⟨_, ht, ?_⟩
  cases v with
  | ok w =>
    have hpow : powered cfg p ↔ w &&& cfg.power.pwrupAckMask = cfg.power.pwrupAckMask := by
      simp [powered, ← hvalue, Except.toOption]
    simp only [powerUpPoll, hread, htc, hpow]
    exact ⟨fun h => if_pos h, fun h => if_neg h⟩
  | error c =>
    have hpow : ¬ powered cfg p := by simp [powered, ← hvalue, Except.toOption]
    refine ⟨fun h => absurd h hpow, fun _ => ?_⟩
    simp only [powerUpPoll, hread]

/-- A poll that does not show both bits, with polls behind it (R220). -/
theorem Runs.powerUpPoll_cons {cfg : Params} (hm : 1 ≤ cfg.engine.maxAttempts) {p : DpPoll} {ps : List DpPoll} {n : Nat}
    {v : Except ErrCode Unit} (hp : p.possible cfg) (hnot : ¬ powered cfg p) (hps : ps ≠ []) (hn : n ≠ 0)
    (h : Runs cfg (powerPolls cfg ps) (powerUpPoll n) v) : Runs cfg (powerPolls cfg (p :: ps)) (powerUpPoll (n + 1)) v := by
  have hnext := h.after ((shows_mapSeqRegs fun r => { r with pollsLeft := BitVec.ofNat 32 n }).comp
    (shows_delay .powerupPoll))
  intro s rest hc hs ha
  rw [powerPolls_cons cfg p hps] at ha ⊢
  obtain ⟨t, ht, -, hgo⟩ := powerUpPoll_poll hm hp n hc hs ha.split
  obtain ⟨hv, hu⟩ := hnext t rest (ht.cfg_eq.trans hc) ht.parked (Answers.after ht)
  rw [hgo hnot, delayIfMore, if_neg hn]
  exact ⟨hv, ht.append hu⟩

/-- Polls that end with the first one that shows both bits (R220). -/
theorem runs_powerUpPoll_powered {cfg : Params} (hm : 1 ≤ cfg.engine.maxAttempts) {p : DpPoll} (hp : p.possible cfg)
    (hpow : powered cfg p) (before : List DpPoll) (hposs : ∀ q ∈ before, q.possible cfg)
    (hnot : ∀ q ∈ before, ¬ powered cfg q) (n : Nat) (hn : (before ++ [p]).length ≤ n) :
    Runs cfg (powerPolls cfg (before ++ [p])) (powerUpPoll n) (.ok ()) := by
  induction before generalizing n with
  | nil =>
    obtain ⟨n, rfl⟩ : ∃ k, n = k + 1 := ⟨n - 1, by simp at hn; omega⟩
    intro s rest hc hs ha
    obtain ⟨t, ht, hend, -⟩ := powerUpPoll_poll hm hp n hc hs ha
    rw [hend hpow]
    exact ⟨rfl, ht⟩
  | cons q qs ih =>
    obtain ⟨n, rfl⟩ : ∃ k, n = k + 1 := ⟨n - 1, by simp at hn; omega⟩
    have hlen : (qs ++ [p]).length ≤ n := by simpa using hn
    obtain ⟨hq, hqs⟩ := List.forall_mem_cons.1 hposs
    obtain ⟨hqnot, hqsnot⟩ := List.forall_mem_cons.1 hnot
    exact (ih hqs hqsnot n hlen).powerUpPoll_cons hm hq hqnot (by simp) (by simp at hlen; omega)

/-- Polls none of which shows both bits run out (R220). -/
theorem runs_powerUpPoll_never {cfg : Params} (hm : 1 ≤ cfg.engine.maxAttempts) (ps : List DpPoll)
    (hposs : ∀ p ∈ ps, p.possible cfg) (hnot : ∀ p ∈ ps, ¬ powered cfg p) :
    Runs cfg (powerPolls cfg ps) (powerUpPoll ps.length) (.error .eTimeout) := by
  induction ps with
  | nil => exact Runs.pure cfg _
  | cons p ps ih =>
    obtain ⟨hp, hps⟩ := List.forall_mem_cons.1 hposs
    obtain ⟨hpnot, hpsnot⟩ := List.forall_mem_cons.1 hnot
    cases ps with
    | nil =>
      intro s rest hc hs ha
      obtain ⟨t, ht, -, hgo⟩ := powerUpPoll_poll hm hp 0 hc hs ha
      have hrun : powerUpPoll 1 s = (.error .eTimeout, setPollsLeft 0 t) := hgo hpnot
      rw [List.length_singleton, hrun]
      exact ⟨rfl, ht⟩
    | cons q qs => exact (ih hps hpsnot).powerUpPoll_cons hm hp hpnot (by simp) (by simp)

/-- The power-up is the abort write, the request write and its polls (R220). -/
theorem runs_powerUp {cfg : Params} (hm : 1 ≤ cfg.engine.maxAttempts) {ps : List DpPoll} {v : Except ErrCode Unit}
    (h : Runs cfg (powerPolls cfg ps) (powerUpPoll cfg.power.powerupPollMax) v) :
    Runs cfg (powerActs cfg ps) powerUp v := by
  have hpolls := h.after (shows_mapSeqRegs fun r => { r with pollsLeft := BitVec.ofNat 32 cfg.power.powerupPollMax })
  have hrequest := (runs_dpWrite hm cfg.engine.dpCtrlStat cfg.power.pwrupReq).tryThen
    (k := fun _ s2 => powerUpPoll s2.cfg.power.powerupPollMax (setPollsLeft s2.cfg.power.powerupPollMax s2))
    (hpolls.congr fun s hc => by rw [hc]; rfl)
  exact ((runs_dpWrite hm cfg.engine.dpAbort cfg.engine.abortClearPattern).tryThen
    (k := fun _ s1 => Machine.tryThen (dpWrite s1.cfg.engine.dpCtrlStat s1.cfg.power.pwrupReq s1) fun _ s2 =>
      powerUpPoll s2.cfg.power.powerupPollMax (setPollsLeft s2.cfg.power.powerupPollMax s2))
    (hrequest.congr fun s hc => by rw [hc])).congr fun s hc => by rw [powerUp, hc]

theorem runs_powerUp_powers {cfg : Params} (hm : 1 ≤ cfg.engine.maxAttempts) {ps : List DpPoll} (h : PowersUp cfg ps) :
    Runs cfg (powerActs cfg ps) powerUp (.ok ()) := by
  obtain ⟨⟨before, p, rfl, hpow, hnot⟩, hlen, hposs⟩ := h
  exact runs_powerUp hm (runs_powerUpPoll_powered hm (hposs p (by simp)) hpow before
    (fun q hq => hposs q (by simp [hq])) hnot _ hlen)

theorem runs_powerUp_never {cfg : Params} (hm : 1 ≤ cfg.engine.maxAttempts) {ps : List DpPoll}
    (h : NeverPowers cfg ps) : Runs cfg (powerActs cfg ps) powerUp (.error .eTimeout) := by
  obtain ⟨hlen, hnot, hposs⟩ := h
  exact runs_powerUp hm (hlen ▸ runs_powerUpPoll_never hm ps hposs hnot)

/-! ### The identification read (R171) -/

/-- What the identification read answers to a value is decided by the validity test. -/
theorem runs_readIdcode {cfg : Params} (hm : 1 ≤ cfg.engine.maxAttempts) (v : Word) :
    Runs cfg [.read cfg.engine.dpIdcode false v] readIdcode
      (if deadIdcode v then .error .eNoTarget else .ok v) := by
  refine ((runs_dpRead hm cfg.engine.dpIdcode v).tryThen (bs := [])
    (k := fun v s1 => if deadIdcode v then (.error .eNoTarget, s1) else (.ok v, s1)) ?_).congr
      fun s hc => by rw [readIdcode, hc]
  split <;> exact Runs.pure cfg _

theorem runs_readIdcode_valid {cfg : Params} (hm : 1 ≤ cfg.engine.maxAttempts) {id : Word} (h : deadIdcode id = false) :
    Runs cfg [.read cfg.engine.dpIdcode false id] readIdcode (.ok id) := by
  simpa [h] using runs_readIdcode hm id

/-- A loop all of whose attempts get one reserved acknowledgement ends with its budget, without a recovery action, whether or
not the three codes differ (R197, R303, D14). -/
theorem retryLoop_reserved (addr : Addr4) (isAP isRead : Bool) (w : Word) (ack : BitVec 3) (n : Nat) :
    ∀ (k : Nat) {s : State} {rest : List (Option Bool)}, Attempt.possible s.cfg isRead (.reserved ack) → Parked s →
      Answers (List.replicate n (.turnedAway addr isAP isRead ack)) rest s →
        ∃ t, retryLoop addr isAP isRead w n k s = (.error (if n = 0 then s.linkRegs.last.error else .eProtocol), t)
          ∧ Played (List.replicate n (.turnedAway addr isAP isRead ack)) rest s t := by
  induction n with
  | zero =>
    intro k s rest _ hp ha
    obtain rfl : s.inputs.line = rest := by simpa [Answers, LineShows] using ha
    exact ⟨s, rfl, Played.nil hp⟩
  | succ n ih =>
    rintro k s rest ⟨hok, hwait, hfault⟩ hp ha
    obtain ⟨hstatus, ht⟩ := rawTransfer_plays_turnedAway addr isAP isRead w ack hok hp
      (Answers.split (as := [.turnedAway addr isAP isRead ack]) ha)
    have hnoted := (ht.mapLinkRegs fun r => { r with attempt := BitVec.ofNat 4 (k + 1) }).mapLinkRegs
      fun r => { r with last := .other }
    obtain ⟨u, hloop, hu⟩ := ih (k + 1) (by rw [hnoted.cfg_eq]; exact ⟨hok, hwait, hfault⟩) hnoted.parked
      (Answers.after hnoted)
    have hcode : (if n = 0 then FailKind.other.error else .eProtocol) = ErrCode.eProtocol := ite_self _
    refine ⟨u, ?_, hnoted.append hu⟩
    rw [if_neg n.succ_ne_zero, ← hcode]
    refine Eq.trans ?_ hloop
    simp only [retryLoop, hstatus, decodeAck, if_neg hok, if_neg hwait, if_neg hfault, setLast]

theorem runs_dpRead_reserved {cfg : Params} (hm : 1 ≤ cfg.engine.maxAttempts) (addr : Addr4) {ack : BitVec 3}
    (h : Attempt.possible cfg true (.reserved ack)) :
    Runs cfg (List.replicate cfg.engine.maxAttempts (.turnedAway addr false true ack)) (dpRead addr)
      (.error .eProtocol) := by
  rintro s rest rfl hp ha
  obtain ⟨t, hloop, ht⟩ := retryLoop_reserved addr false true 0#32 ack _ 0
    (s := s.mapLinkRegs fun r => { r with attempt := 0#4 }) h hp ha
  rw [dpRead, retry, hloop, if_neg (by omega)]
  exact ⟨rfl, ht⟩

/-- An identification read that fails, in each of the ways it can (R171). -/
theorem IdFails.runs {cfg : Params} (hm : 1 ≤ cfg.engine.maxAttempts) {acts : List Act} (h : IdFails cfg acts) :
    ∃ c, Runs cfg acts readIdcode (.error c) := by
  have hunread : ∀ {as : List Act} {c : ErrCode}, Runs cfg as (dpRead cfg.engine.dpIdcode) (.error c) →
      Runs cfg as readIdcode (.error c) := fun hread => hread.tryThen_error.congr fun s hc => by rw [readIdcode, hc]
  rcases h with ⟨v, hdead, rfl⟩ | ⟨ack, hack, -, rfl⟩ | ⟨fs, hfs, rfl⟩
  · exact ⟨.eNoTarget, by simpa [hdead] using runs_readIdcode hm v⟩
  · exact ⟨_, hunread (runs_dpRead_reserved hm _ hack)⟩
  · obtain ⟨last, -, hread⟩ := runs_retry_exhausted hm cfg.engine.dpIdcode false true 0#32 hfs
    exact ⟨_, hunread hread⟩

/-! ### The wake and its fallback (R170) -/

/-- `identify` as two reads, the second where the first fails. -/
theorem identify_eq (s : State) :
    identify s = fallBack (readIdcode (dormantWakeSequence s)) fun s1 =>
      fallBack (readIdcode (jtagToSwdSequence (lineReset s1))) fun s2 => (.error .eConnect, s2) := by
  unfold identify
  obtain ⟨c | v, s1⟩ := readIdcode (dormantWakeSequence s)
  · rw [fallBack_error]
    dsimp only
    obtain ⟨d | w, s2⟩ := readIdcode (jtagToSwdSequence (lineReset s1)) <;> rfl
  · rfl

/-- The first read, behind the wake. -/
theorem runs_wakeRead {cfg : Params} {as : List Act} {v : Except ErrCode Word} (h : Runs cfg as readIdcode v) :
    Runs cfg (.send (wakeBits cfg) :: as) (fun s => readIdcode (dormantWakeSequence s)) v :=
  h.afterSends fun s hc => hc ▸ sends_dormantWakeSequence s

/-- The second read, behind line reset and protocol select. -/
theorem runs_selectRead {cfg : Params} {as : List Act} {v : Except ErrCode Word} (h : Runs cfg as readIdcode v) :
    Runs cfg (.send (resetBits cfg) :: .send (selectBits cfg) :: as)
      (fun s => readIdcode (jtagToSwdSequence (lineReset s))) v :=
  (h.afterSends (g := jtagToSwdSequence) fun s hc => hc ▸ sends_jtagToSwdSequence s).afterSends (g := lineReset)
    fun s hc => hc ▸ sends_lineReset s

/-- Either way to a valid code gives the code (R170). -/
theorem Identifies.runs {cfg : Params} (hm : 1 ≤ cfg.engine.maxAttempts) {id : Word} {ident : List Act}
    (h : Identifies cfg id ident) : Runs cfg ident identify (.ok id) := by
  obtain ⟨hid, rfl | ⟨failed, hfailed, rfl⟩⟩ := h
  · exact (runs_wakeRead (runs_readIdcode_valid hm hid)).fallBack_ok.congr fun s _ => identify_eq s
  · obtain ⟨c, hfirst⟩ := hfailed.runs hm
    exact ((runs_wakeRead hfirst).fallBack_error
      (runs_selectRead (runs_readIdcode_valid hm hid)).fallBack_ok).congr fun s _ => identify_eq s

/-- Where both reads fail, whatever their errors, the answer is `E_CONNECT` (R170). -/
theorem runs_identify_fails {cfg : Params} (hm : 1 ≤ cfg.engine.maxAttempts) {first second : List Act}
    (hfirst : IdFails cfg first) (hsecond : IdFails cfg second) :
    Runs cfg (.send (wakeBits cfg) :: first ++ [.send (resetBits cfg), .send (selectBits cfg)] ++ second) identify
      (.error .eConnect) := by
  obtain ⟨c, h1⟩ := hfirst.runs hm
  obtain ⟨d, h2⟩ := hsecond.runs hm
  have hboth := (runs_wakeRead h1).fallBack_error ((runs_selectRead h2).fallBack_error (Runs.pure cfg (.error .eConnect)))
  rw [List.append_nil] at hboth
  rw [List.append_assoc]
  exact hboth.congr fun s _ => identify_eq s

end Sys2Proof.Machine

/-! ## The operations of the sequencer (R170, R172 to R174) -/

namespace Sys2Proof.Machine

/-! ### `LOCK` before the first transfer

`connect` starts from any state, and its re-initialisation leaves `LOCK` (R31, R341); the first transfer takes it whatever it
was (R196), so up to there it decides nothing. -/

theorem sendBits_setLock (bs : List Bool) (b : Bool) (s : State) :
    sendBits bs (s.setLock b) = (sendBits bs s).setLock b := by
  cases hd : s.session.driveState with
  | driven => rw [sendBits_driven bs hd, sendBits_driven bs (by simpa using hd)]; rfl
  | released => rw [sendBits_released bs hd, sendBits_released bs (by simpa using hd)]; rfl

theorem writeBits_setLock (v : Word) (n : Nat) (b : Bool) (s : State) :
    writeBits v n (s.setLock b) = (writeBits v n s).setLock b := by
  rw [writeBits, sendBits_setLock]
  rfl

theorem lineReset_setLock (b : Bool) (s : State) : lineReset (s.setLock b) = (lineReset s).setLock b := by
  rw [lineReset, setLock_cfg, sendBits_setLock]
  rfl

theorem dormantWakeSequence_setLock (b : Bool) (s : State) :
    dormantWakeSequence (s.setLock b) = (dormantWakeSequence s).setLock b := by
  simp only [dormantWakeSequence, setLock_cfg, sendBits_setLock, writeBits_setLock, lineReset_setLock]

theorem rawTransfer_setLock (a : Addr4) (p r : Bool) (d : Word) (b : Bool) (s : State) :
    rawTransfer a p r d (s.setLock b) = rawTransfer a p r d s := rfl

theorem retry_setLock (a : Addr4) (p r : Bool) (d : Word) (b : Bool) {s : State} (hm : 1 ≤ s.cfg.engine.maxAttempts) :
    retry a p r d (s.setLock b) = retry a p r d s := by
  obtain ⟨n, hn⟩ : ∃ n, s.cfg.engine.maxAttempts = n + 1 := ⟨s.cfg.engine.maxAttempts - 1, by omega⟩
  have hcomm : ∀ f, (s.setLock b).mapLinkRegs f = (s.mapLinkRegs f).setLock b := fun _ => rfl
  rw [retry, retry, setLock_cfg, hn, hcomm]
  simp only [retryLoop, rawTransfer_setLock]

theorem identify_setLock (b : Bool) {s : State} (hm : 1 ≤ s.cfg.engine.maxAttempts) :
    identify (s.setLock b) = identify s := by
  have hcfg : (dormantWakeSequence s).cfg = s.cfg := (ran_dormantWakeSequence s).wired.cfg
  have hread : readIdcode (dormantWakeSequence (s.setLock b)) = readIdcode (dormantWakeSequence s) := by
    rw [dormantWakeSequence_setLock, readIdcode, readIdcode, setLock_cfg, dpRead, dpRead,
      retry_setLock _ _ _ _ _ (by rwa [hcfg])]
  rw [identify_eq, identify_eq, hread]

/-! ### `connect` (R170) -/

theorem ran_engineStable : EngineStable Ran where
  refl := Ran.refl
  trans := Ran.trans
  transfer := ran_rawTransfer
  send := ran_sendBits
  link := ran_mapLinkRegs
  delay := ran_delay

theorem worked_identify (s : State) : Worked s (identify s).2 := (ran_engineStable.ends_identify s).rel.worked

/-- The part of `connect` behind the identification: the power-up, then the memory-access port. -/
def attach (s : State) : Res Unit := tryThen (powerUp s) fun _ => memApInit

theorem worked_attach (s : State) : Worked s (attach s).2 :=
  (worked_powerUp s).tryThen fun _ u => (ran_memApInit u).worked

theorem runs_attach {cfg : Params} (hm : 1 ≤ cfg.engine.maxAttempts) {ps : List DpPoll} (h : PowersUp cfg ps) :
    Runs cfg (attachActs cfg ps) attach (.ok ()) :=
  (runs_powerUp_powers hm h).tryThen (runs_memApInit hm)

theorem runs_attach_never {cfg : Params} (hm : 1 ≤ cfg.engine.maxAttempts) {ps : List DpPoll} (h : NeverPowers cfg ps) :
    Runs cfg (powerActs cfg ps) attach (.error .eTimeout) :=
  (runs_powerUp_never hm h).tryThen_error

/-- Where the identification starts: the session re-initialised, the lock free. -/
def restarted (s : State) : State := (sessionReinit s).setLock false

theorem restarted_parked (s : State) : Parked (restarted s) := ⟨⟨rfl, rfl, rfl⟩, rfl⟩

theorem restarted_session (s : State) :
    (restarted s).session
      = { s.session with driveState := .driven, connectionState := .disconnected, lock := false } := rfl

/-- The re-initialisation shows on no script (R341). -/
theorem played_of_restarted {as : List Act} {rest : List (Option Bool)} {s t : State}
    (h : Played as rest (restarted s) t) : Played as rest s t := h

/-- `connect` as the identification from a parked line and the attachment. -/
theorem connect_eq {s : State} (hm : 1 ≤ s.cfg.engine.maxAttempts) :
    connect s = tryThen (identify (restarted s)) fun v s1 =>
      tryThen (attach (setIdcode v s1)) fun _ s2 => (.ok s2.session.idcodeReg, s2.setConnection .connected) := by
  have hlock : identify (restarted s) = identify (sessionReinit s) := identify_setLock false hm
  simp only [connect, hlock, attach, tryThen_assoc]

section Connect

variable {s : State} {id : Word} {ident : List Act} {ps : List DpPoll} {rest : List (Option Bool)}

/-- What `connect` is once the identification gave a code: the attachment decides. -/
theorem connect_identified (hm : 1 ≤ s.cfg.engine.maxAttempts) (hid : Identifies s.cfg id ident)
    (ha : Answers ident rest s) :
    ∃ u, connect s = tryThen (attach u) (fun _ s2 => (.ok s2.session.idcodeReg, s2.setConnection .connected))
      ∧ Played ident rest s u ∧ u.session = { (restarted s).session with idcodeReg := id } := by
  obtain ⟨t, hident, ht, hsession⟩ :=
    (hid.runs hm).result worked_identify (s := restarted s) rfl (restarted_parked s) ha
  exact ⟨setIdcode id t, by rw [connect_eq hm, hident, tryThen_ok], ht, by rw [setIdcode_session, hsession]⟩

/-- An answered `connect` ends Connected with the code read (R170). -/
theorem connect_completes (hm : 1 ≤ s.cfg.engine.maxAttempts) (hid : Identifies s.cfg id ident)
    (hps : PowersUp s.cfg ps) (ha : Answers (ident ++ attachActs s.cfg ps) rest s) :
    ∃ t, connect s = (.ok id, t) ∧ Played (ident ++ attachActs s.cfg ps) rest s t
      ∧ t.session
          = { s.session with driveState := .driven, connectionState := .connected, lock := false, idcodeReg := id } := by
  obtain ⟨u, hconnect, hu, husession⟩ := connect_identified hm hid ha.split
  obtain ⟨t, hattach, ht, htsession⟩ :=
    (runs_attach hm hps).result worked_attach hu.cfg_eq hu.parked (Answers.after hu)
  refine ⟨t.setConnection .connected, ?_, hu.append ht, ?_⟩
  · rw [hconnect, hattach, tryThen_ok, htsession, husession]
  · rw [setConnection_session, htsession, husession, restarted_session]

end Connect

/-! ### `isConnected` (R173) -/

theorem isConnected_down {s : State} (h : s.session.connectionState = .disconnected) : isConnected s = (false, s) :=
  if_pos h

theorem isConnected_valid {s t : State} {v : Word} (h : s.session.connectionState = .connected)
    (hread : readIdcode s = (.ok v, t)) : isConnected s = (true, setIdcode v t) := by
  rw [isConnected, if_neg (by simp [h]), hread]

theorem isConnected_failed {s t : State} {c : ErrCode} (h : s.session.connectionState = .connected)
    (hread : readIdcode s = (.error c, t)) : isConnected s = (false, t.setConnection .disconnected) := by
  rw [isConnected, if_neg (by simp [h]), hread]

/-! ### `resetTarget` (R174) -/

/-- The reset pin asserted and released, each with its hold. -/
def nresetPulsed (s : State) : State :=
  delay .resetRelease (driveNreset false (delay .resetAssert (driveNreset true s)))

theorem resetTarget_eq {s : State} (h : s.cfg.link.hasNreset = true) : resetTarget s = connect (nresetPulsed s) :=
  if_pos h

/-- The pulse is four events without a clock pulse, and the pin is released behind it. -/
theorem nresetPulsed_eq (s : State) :
    nresetPulsed s
      = { s with
          pins := { s.pins with nreset := !s.cfg.wire.nresetActiveLevel }
          trace := s.trace ++ [.nrst true, .delay .resetAssert, .nrst false, .delay .resetRelease] } := by
  simp [nresetPulsed, delay, driveNreset, State.mapPins, State.emit]

/-! ### The statements of the connection sequencer family -/

theorem hostPortsKept_of_exec {i : Instr} {s t : State} (h : exec i s = .next t) (hb : readsBuffer i = false)
    (hr : reportsProgress i = false) : HostPortsKept s t := by
  obtain ⟨-, hbuffer, hprogress⟩ := workingRegistersAndPortsFrame i s t h
  exact ⟨(hbuffer hb).1, (hbuffer hb).2, hprogress hr⟩

theorem exec_connect (s : State) : exec .connect s = .next (respondWord (connect s)) := rfl

/-- Settles O30: the identification, then the attachment, and only their success marks the session. -/
theorem connectCompletes : Obligations.ConnectCompletes := by
  intro s id ident vs rest hm hid hvs ha
  obtain ⟨t, hconnect, ht, hsession⟩ := connect_completes hm hid hvs ha
  have hexec := exec_connect s
  have hports := hostPortsKept_of_exec hexec rfl rfl
  rw [respondWord, hconnect] at hexec hports
  exact ⟨_, hexec, ⟨⟨rfl, rfl⟩, rfl⟩, ht.respond _, hsession, hports⟩

/-- Settles O31: two failed identifications end `connect` where it began, re-initialised. -/
theorem connectFailsWithoutTarget : Obligations.ConnectFailsWithoutTarget := by
  intro s first second rest hm hfirst hsecond acts ha
  obtain ⟨t, hident, ht, hsession⟩ :=
    (runs_identify_fails hm hfirst hsecond).result worked_identify (s := restarted s) rfl (restarted_parked s) ha
  have hexec := exec_connect s
  rw [respondWord, connect_eq hm, hident, tryThen_error] at hexec
  exact ⟨_, hexec, ⟨rfl, rfl⟩, (played_of_restarted ht).respond _, hsession⟩

/-- Settles O32: a failed attachment passes its code on and does not mark the session. -/
theorem connectKeepsPowerUpError : Obligations.ConnectKeepsPowerUpError := by
  intro s id ident vs rest hm hid hvs ha
  obtain ⟨u, hconnect, hu, husession⟩ := connect_identified hm hid ha.split
  obtain ⟨t, hattach, ht, htsession⟩ :=
    (runs_attach_never hm hvs).result worked_attach hu.cfg_eq hu.parked (Answers.after hu)
  have hexec := exec_connect s
  rw [respondWord, hconnect, hattach, tryThen_error] at hexec
  have hdown : t.session.connectionState = .disconnected := by rw [htsession, husession, restarted_session]
  exact ⟨_, hexec, ⟨rfl, rfl⟩, (hu.append ht).respond _, hdown⟩

/-- Settles O33: whichever way the line stood, the line reset is one sending, and then the session is marked. -/
theorem disconnectEffect : Obligations.DisconnectEffect := by
  refine ⟨fun c hop => ?_, fun s hq => ?_⟩
  · have hext : externalOp 0x11#8 = true := rfl
    rw [decode, hop, if_pos hext, decodeCommand, hop]
    rfl
  · obtain ⟨sh, n, hsent⟩ := (sends_lineReset s).eq_of_quiet hq
    have hexec : exec .disconnect s = .next (respondDone ((lineReset s).setConnection .disconnected)) := rfl
    rw [hsent] at hexec
    obtain ⟨hclk, -, hlock⟩ := hq
    exact ⟨_, hexec, ⟨rfl, rfl⟩, rfl, rfl, ⟨⟨hclk, rfl, hlock⟩, rfl⟩, rfl, rfl, rfl, rfl, ⟨rfl, rfl, rfl, rfl, rfl, rfl⟩⟩

/-- Settles O34: the flag decides whether the wire is used, and the identification read decides the rest. -/
theorem isConnectedEffect : Obligations.IsConnectedEffect := by
  intro s rest
  have hexec : exec .isConnected s
      = .next (respondValue (if (isConnected s).1 then 1#32 else 0#32) (isConnected s).2) := rfl
  obtain ⟨hseq, -⟩ := workingRegistersAndPortsFrame _ _ _ hexec
  have hseqRegs := hseq rfl
  have hports := hostPortsKept_of_exec hexec rfl rfl
  have hworked : ∀ u, Worked u (readIdcode u).2 := fun u => (ran_readIdcode u).worked
  refine ⟨fun hdown => ?_, fun id hup hp hm hid ha => ?_, fun failed hup hp hm hfailed ha => ?_⟩
  · rw [isConnected_down hdown] at hexec
    exact ⟨_, hexec, ⟨⟨rfl, rfl⟩, rfl⟩, rfl⟩
  · obtain ⟨t, hread, ht, hsession⟩ := (runs_readIdcode_valid hm hid).result hworked rfl hp ha
    rw [isConnected_valid hup hread] at hexec hseqRegs hports
    have hplayed : Played [.read s.cfg.engine.dpIdcode false id] rest s (setIdcode id t) := ht
    exact ⟨_, hexec, ⟨⟨rfl, rfl⟩, rfl⟩, hplayed.respond _, by simp [respondValue, hsession], hseqRegs, hports⟩
  · obtain ⟨c, hruns⟩ := hfailed.runs hm
    obtain ⟨t, hread, ht, hsession⟩ := hruns.result hworked rfl hp ha
    rw [isConnected_failed hup hread] at hexec hseqRegs hports
    have hplayed : Played failed rest s (t.setConnection .disconnected) := ht
    exact ⟨_, hexec, ⟨⟨rfl, rfl⟩, rfl⟩, hplayed.respond _, by simp [respondValue, hsession], hseqRegs, hports⟩

/-- Settles O35: the pulse on the reset pin takes nothing off the line, and `connect` runs from the state behind it. -/
theorem resetTargetCompletes : Obligations.ResetTargetCompletes := by
  intro s id ident vs rest hn hm hid hvs acts ha
  have hpulsed := nresetPulsed_eq s
  have hcfg : (nresetPulsed s).cfg = s.cfg := by rw [hpulsed]
  have hanswers : Answers (ident ++ attachActs s.cfg vs) rest (nresetPulsed s) := by
    rw [hpulsed]
    simpa [acts, Answers, LineShows, Act.answer] using ha
  rw [← hcfg] at hm hid hvs hanswers
  obtain ⟨t, hconnect, ⟨htrace, hinputs, hparked, htcfg, hnreset⟩, hsession⟩ := connect_completes hm hid hvs hanswers
  rw [hcfg] at htrace
  rw [hpulsed] at htrace hinputs htcfg hnreset hsession
  have hexec : exec .resetTarget s = .next (respondWord (resetTarget s)) := rfl
  have hports := hostPortsKept_of_exec hexec rfl rfl
  rw [respondWord, resetTarget_eq hn, hconnect] at hexec hports
  refine ⟨_, hexec, ⟨⟨rfl, rfl⟩, rfl⟩, ?_, hinputs, hparked, htcfg, hnreset, hsession, hports⟩
  exact htrace.trans (by simp [acts, Act.events])

end Sys2Proof.Machine

/-! # The transaction engine family (`42_transaction_engine.md`): one transfer, the accesses and their budgets -/

/-! ## One transfer (R193 to R195) -/

namespace Sys2Proof.Machine

theorem respondXfer_linkRegs (r : Bool) (x : Xfer) : (respondXfer r x).linkRegs = x.st.linkRegs := by
  obtain ⟨v, hv⟩ := respondXfer_eq r x
  rw [hv, respond_linkRegs]

/-- A request row or `rawTransfer` whose transfer is known: its response, its frame, its registers, and what it keeps (R107,
R190; log 1). -/
theorem exec_transfer_of_afterTransfer {i : Instr} {a : Addr4} {p r : Bool} {w d : Word} {s : State} {lr : LinkRegs}
    {st : XferStatus} {rest : List (Option Bool)} {es : List Event} (hi : transferOf i = some (a, p, r, w))
    (hx : rawTransfer a p r w s = { status := st, rdata := d, st := afterTransfer s lr st rest es })
    (hattempt : lr.attempt = s.linkRegs.attempt) (hlast : lr.last = s.linkRegs.last) :
    ∃ t, exec i s = .next t ∧ Responded statusOk t ∧ t.trace = s.trace ++ entryTurn s ++ es ∧ t.ports.xferStatus = st
      ∧ t.linkRegs = lr ∧ TransferFrame rest s t
      ∧ (r = true → st = .ok → t.ports.rspData = d) ∧ (st ≠ .ok → t.ports.rspData = Config.freeWord s.draws) := by
  have hexec := exec_transfer hi s
  rw [hx] at hexec
  obtain ⟨hresp, htrace, hstatus, hframe⟩ := respondXfer_afterTransfer
    (t := respondXfer r { status := st, rdata := d, st := afterTransfer s lr st rest es }) rfl hattempt hlast
  refine ⟨_, hexec, hresp, htrace, hstatus, respondXfer_linkRegs _ _, hframe, ?_, fun h => respondXfer_rspData_free h⟩
  rintro rfl hok
  exact respondXfer_rspData_ok hok

/-- Settles O18: either parity bit gives one and the same frame and registers; the status decides the delivery. -/
theorem readParityDecides : Obligations.ReadParityDecides := by
  intro i s a p w data par rest hi hl
  obtain ⟨t, hexec, hresp, htrace, hstatus, hregs, hframe, hword, hfree⟩ :=
    exec_transfer_of_afterTransfer hi (rawTransfer_read a p w data par rest s hl) rfl rfl
  refine ⟨t, hexec, hresp, htrace, fun hpar => ?_, fun hpar => ?_, ?_⟩
  · exact ⟨hstatus.trans (if_pos hpar), hword rfl (if_pos hpar)⟩
  · exact ⟨hstatus.trans (if_neg hpar), hfree (by simp [hpar])⟩
  · rw [hregs]
    exact ⟨rfl, rfl, rfl, rfl, rfl, hframe⟩

/-- Settles O19: a write acknowledged OK loads `WDATA` and sends it. -/
theorem okWriteFrame : Obligations.OkWriteFrame := by
  intro i s a p w rest hi hl
  obtain ⟨t, hexec, hresp, htrace, hstatus, hregs, hframe, -⟩ :=
    exec_transfer_of_afterTransfer hi (rawTransfer_write a p w rest s hl) rfl rfl
  refine ⟨t, hexec, hresp, hstatus, htrace, ?_⟩
  rw [hregs]
  exact ⟨rfl, rfl, rfl, rfl, rfl, hframe⟩

/-- Settles O20: the acknowledgement decoder names the status, and no data register is loaded. -/
theorem notOkFrame : Obligations.NotOkFrame := by
  intro i s a p r w ack rest hi hack hl
  obtain ⟨t, hexec, hresp, htrace, hstatus, hregs, hframe, -⟩ :=
    exec_transfer_of_afterTransfer hi (rawTransfer_notOk a p r w ack rest s hack hl) rfl rfl
  refine ⟨t, hexec, hresp, hstatus.trans (decodeAck_notOk hack), htrace, ?_⟩
  rw [hregs]
  exact ⟨rfl, rfl, rfl, rfl, rfl, hframe⟩

end Sys2Proof.Machine

/-! ## Accesses behind failed attempts, and accesses whose budget runs out (R197 to R202) -/

namespace Sys2Proof.Machine

/-! ### From a script to the response of the instruction -/

section Responses

variable {i : Instr} {α : Type} {acts : List Act} {f : State → Res α} {v : Except ErrCode α} {g : α → Option Word}
  {s : State} {rest : List (Option Bool)}

/-- An instruction that ends an operation of the engine responds with the operation's result, plays its script, and keeps the
session, the sequencers' registers and the host's ports (R27, R34, R36, R124). -/
theorem Runs.responds (h : Runs s.cfg acts f v) (hf : ∀ u, Ran u (f u).2)
    (he : exec i s = .next (respond ((f s).1.map g, (f s).2))) (hp : Parked s) (ha : Answers acts rest s) :
    ∃ u, exec i s = .next (respond (v.map g, u)) ∧ Played acts rest s (respond (v.map g, u))
      ∧ (respond (v.map g, u)).session = s.session ∧ (respond (v.map g, u)).seqRegs = s.seqRegs
      ∧ HostPortsKept s (respond (v.map g, u)) := by
  obtain ⟨u, hu, hplayed, hsession⟩ := h.result (fun u => (hf u).worked) rfl hp ha
  have hwired := (hf s).wired
  rw [hu] at he hwired
  refine ⟨u, he, hplayed.respond _, by rw [respond_session, hsession], by rw [respond_seqRegs, hwired.seqRegs], ?_⟩
  exact hostPortsKept_iff.2 ((hostPortsKept_iff.1 (respond_hostPortsKept (v.map g, u))).trans hwired.hostPorts)

/-- An operation that returns a word. -/
theorem Runs.responds_word {f : State → Res Word} {w : Word} (h : Runs s.cfg acts f (.ok w)) (hf : ∀ u, Ran u (f u).2)
    (he : exec i s = .next (respondWord (f s))) (hp : Parked s) (ha : Answers acts rest s) :
    ∃ t, exec i s = .next t ∧ RespondedWith w t ∧ Played acts rest s t ∧ t.session = s.session ∧ t.seqRegs = s.seqRegs
      ∧ HostPortsKept s t := by
  obtain ⟨u, hexec, hkept⟩ := h.responds hf he hp ha
  exact ⟨_, hexec, ⟨⟨rfl, rfl⟩, rfl⟩, hkept⟩

/-- An operation that completes without a result value. -/
theorem Runs.responds_done {f : State → Res Unit} (h : Runs s.cfg acts f (.ok ())) (hf : ∀ u, Ran u (f u).2)
    (he : exec i s = .next (respondUnit (f s))) (hp : Parked s) (ha : Answers acts rest s) :
    ∃ t, exec i s = .next t ∧ Responded statusOk t ∧ Played acts rest s t ∧ t.session = s.session
      ∧ t.seqRegs = s.seqRegs ∧ HostPortsKept s t := by
  obtain ⟨u, hexec, hkept⟩ := h.responds hf he hp ha
  exact ⟨_, hexec, ⟨rfl, rfl⟩, hkept⟩

/-- An operation that fails. -/
theorem Runs.responds_error {c : ErrCode} (h : Runs s.cfg acts f (.error c)) (hf : ∀ u, Ran u (f u).2)
    (he : exec i s = .next (respond ((f s).1.map g, (f s).2))) (hp : Parked s) (ha : Answers acts rest s) :
    ∃ t, exec i s = .next t ∧ Responded c.toByte t ∧ Played acts rest s t ∧ t.session = s.session := by
  obtain ⟨u, hexec, hplayed, hsession, -⟩ := h.responds hf he hp ha
  exact ⟨_, hexec, ⟨rfl, rfl⟩, hplayed, hsession⟩

end Responses

/-! ### Attempts fewer than the budget -/

/-- Failed attempts that leave the access at least one more (R197); `Exhausted` is the case that leaves none. -/
def LeavesAttempt (cfg : Params) (isRead : Bool) (fs : List Attempt) : Prop :=
  AckCodesDistinct cfg ∧ fs.length < cfg.engine.maxAttempts ∧ ∀ f ∈ fs, f.possible cfg isRead

/-- `retry` succeeds at the first attempt acknowledged OK, behind those that failed (R197). -/
theorem retry_behind_attempts (addr : Addr4) (isAP isRead : Bool) (w d : Word) {fs : List Attempt} {s : State}
    {rest : List (Option Bool)} (hfs : LeavesAttempt s.cfg isRead fs) (hp : Parked s)
    (ha : Answers (attemptActs s.cfg addr isAP isRead fs ++ [okAct addr isAP isRead w d]) rest s) :
    ∃ v t, retry addr isAP isRead w s = (.ok v, t) ∧ (isRead = true → v = d)
      ∧ Played (attemptActs s.cfg addr isAP isRead fs ++ [okAct addr isAP isRead w d]) rest s t := by
  obtain ⟨hcodes, hlen, hposs⟩ := hfs
  obtain ⟨n, hn⟩ : ∃ n, s.cfg.engine.maxAttempts = n + 1 + fs.length :=
    ⟨s.cfg.engine.maxAttempts - fs.length - 1, by omega⟩
  obtain ⟨t, hfailed, ht, -⟩ := retryLoop_attempts addr isAP isRead w (n + 1) fs 0
    (s := s.mapLinkRegs fun r => { r with attempt := 0#4 }) hcodes hposs hp ha.split
  obtain ⟨v, u, hok, hv, hu⟩ := retryLoop_ok addr isAP isRead w d n (0 + fs.length) ht.parked (Answers.after ht)
  refine ⟨v, u, ?_, hv, ht.append hu⟩
  rw [retry, hn, hfailed, hok]

/-- A read returns the data of the attempt that succeeds, whatever failed before it (R197, R198). -/
theorem runs_retry_read {cfg : Params} {fs : List Attempt} (hfs : LeavesAttempt cfg true fs) (addr : Addr4) (isAP : Bool)
    (d : Word) :
    Runs cfg (attemptActs cfg addr isAP true fs ++ [.read addr isAP d]) (retry addr isAP true 0#32) (.ok d) := by
  rintro s rest rfl hp ha
  obtain ⟨v, t, hretry, hv, ht⟩ := retry_behind_attempts addr isAP true 0#32 d hfs hp ha
  rw [hretry, hv rfl]
  exact ⟨rfl, ht⟩

/-- A write is sent again until it succeeds, whatever failed before (R197, R199, R200). -/
theorem runs_retry_write {cfg : Params} {fs : List Attempt} (hfs : LeavesAttempt cfg false fs) (addr : Addr4)
    (isAP : Bool) (w : Word) :
    Runs cfg (attemptActs cfg addr isAP false fs ++ [.write addr isAP w])
      (fun s => Machine.tryThen (retry addr isAP false w s) fun _ s1 => (.ok (), s1)) (.ok ()) := by
  rintro s rest rfl hp ha
  obtain ⟨v, t, hretry, -, ht⟩ := retry_behind_attempts addr isAP false w 0#32 hfs hp ha
  simp only [hretry, tryThen_ok]
  exact ⟨trivial, ht⟩

/-- What follows a posted read, whatever failed before it: the read of the read buffer decides (R201). -/
theorem runs_apRead_posted {cfg : Params} {fs : List Attempt} (hfs : LeavesAttempt cfg true fs) (addr : Addr4)
    (stale : Word) {acts : List Act} {v : Except ErrCode Word}
    (h : Runs cfg acts (retry cfg.engine.dpRdbuff false true 0#32) v) :
    Runs cfg (attemptActs cfg addr true true fs ++ [.read addr true stale] ++ acts) (apRead addr) v :=
  (runs_retry_read hfs addr true stale).tryThen (k := fun _ s1 => dpRead s1.cfg.engine.dpRdbuff s1)
    (h.congr fun s hc => by rw [dpRead, hc])

/-- Settles O24: each access is the retry loop, which the failed attempts bring to the one that succeeds. -/
theorem accessSucceedsAtAnyAttempt : Obligations.AccessSucceedsAtAnyAttempt := by
  intro s fs addr v rest hp hcodes hlen
  refine ⟨fun hposs => ?_, fun hposs => ?_, fun hposs => ?_⟩
  · exact (runs_retry_read ⟨hcodes, hlen, hposs⟩ addr false v).responds_word (ran_dpRead addr) rfl hp
  · exact (runs_retry_write ⟨hcodes, hlen, hposs⟩ addr false v).responds_done (ran_dpWrite addr v) rfl hp
  · exact (runs_retry_write ⟨hcodes, hlen, hposs⟩ addr true v).responds_done (ran_apWrite addr v) rfl hp

/-- Settles O25: the posted read's loop, and behind it the read buffer's with a budget of its own. -/
theorem apReadIsPosted : Obligations.ApReadIsPosted := by
  intro s fs gs addr stale v rest hp hcodes hfs hgs hfposs hgposs acts ha
  have hbuffer := runs_retry_read ⟨hcodes, hgs, hgposs⟩ s.cfg.engine.dpRdbuff false v
  have hruns := runs_apRead_posted ⟨hcodes, hfs, hfposs⟩ addr stale hbuffer
  rw [← List.append_assoc] at hruns
  exact hruns.responds_word (ran_apRead addr) rfl hp ha

/-! ### A budget that runs out -/

/-- `retry` whose whole budget fails reports the last attempt's kind (R197e, R309). -/
theorem runs_retry_lastFailure {cfg : Params} {isRead : Bool} {fs : List Attempt} {last : Attempt}
    (hfs : Exhausted cfg isRead fs) (hlast : fs.getLast? = some last) (addr : Addr4) (isAP : Bool) (w : Word) :
    Runs cfg (attemptActs cfg addr isAP isRead fs) (retry addr isAP isRead w) (.error last.code) := by
  have ⟨_, hlen, _⟩ := hfs
  have hpos : 0 < fs.length := List.length_pos_of_mem (List.mem_of_getLast? hlast)
  obtain ⟨last', hlast', hruns⟩ := runs_retry_exhausted (by omega) addr isAP isRead w hfs
  obtain rfl : last = last' := Option.some.inj (hlast.symm.trans hlast')
  exact hruns

/-- Settles O26: every failing loop is `retry` run out; an access ends with it, and behind a posted read so does the read
buffer's. -/
theorem exhaustedAccessNamesLastFailure : Obligations.ExhaustedAccessNamesLastFailure := by
  intro s fs last addr v rest hp hcodes hlen hlast
  refine ⟨fun hposs => ?_, fun hposs => ?_⟩
  · have hread := runs_retry_lastFailure (isRead := true) ⟨hcodes, hlen, hposs⟩ hlast
    refine ⟨?_, ?_, ?_⟩
    · exact (hread addr false 0#32).responds_error (ran_dpRead addr) rfl hp
    · exact (hread addr true 0#32).tryThen_error.responds_error (ran_apRead addr) rfl hp
    · intro gs stale hgs hgposs acts ha
      exact (runs_apRead_posted ⟨hcodes, hgs, hgposs⟩ addr stale (hread _ false 0#32)).responds_error
        (ran_apRead addr) rfl hp ha
  · have hwrite := runs_retry_lastFailure (isRead := false) ⟨hcodes, hlen, hposs⟩ hlast
    refine ⟨?_, ?_⟩
    · exact (hwrite addr false v).tryThen_error.responds_error (ran_dpWrite addr v) rfl hp
    · exact (hwrite addr true v).tryThen_error.responds_error (ran_apWrite addr v) rfl hp

end Sys2Proof.Machine

/-! ## Power-up and memory words (R220 to R227) -/

namespace Sys2Proof.Machine

/-! ### What the power-up leaves alone -/

/-- From `s` to `t` no sequencer register but `POLLS_LEFT` moved (R36). -/
def OnlyPollsLeftMoved (s t : State) : Prop := t.seqRegs = { s.seqRegs with pollsLeft := t.seqRegs.pollsLeft }

theorem onlyPollsLeftMoved_pollStable : PollStable OnlyPollsLeftMoved where
  toEngineStable := .of_wired (fun _ => rfl) (fun h k => by rw [OnlyPollsLeftMoved, k, h])
    fun s t h => by rw [OnlyPollsLeftMoved, h.seqRegs]
  polls _ _ := rfl

/-- A `powerUp` whose result is known responds with it, plays its script, and keeps the session, the host's ports and every
sequencer register but `POLLS_LEFT` (R27, R34, R36, R220). -/
theorem Runs.powerUp_responds {acts : List Act} {v : Except ErrCode Unit} {s : State} {rest : List (Option Bool)}
    (h : Runs s.cfg acts powerUp v) (hp : Parked s) (ha : Answers acts rest s) :
    ∃ u, exec .powerUp s = .next (respondUnit (v, u)) ∧ Played acts rest s (respondUnit (v, u))
      ∧ (respondUnit (v, u)).session = s.session ∧ OnlyPollsLeftMoved s (respondUnit (v, u))
      ∧ HostPortsKept s (respondUnit (v, u)) := by
  obtain ⟨u, hu, hplayed, hsession⟩ := h.result worked_powerUp rfl hp ha
  have hexec : exec .powerUp s = .next (respondUnit (powerUp s)) := rfl
  have hpolls : OnlyPollsLeftMoved s (powerUp s).2 := (onlyPollsLeftMoved_pollStable.ends_powerUp s).rel
  rw [hu] at hexec hpolls
  refine ⟨u, hexec, hplayed.respond _, ?_, ?_, hostPortsKept_of_exec hexec rfl rfl⟩
  · rw [respondUnit, respond_session, hsession]
  · rw [OnlyPollsLeftMoved, respondUnit, respond_seqRegs]
    exact hpolls

/-! ### The statements of the power-up and memory-access family -/

/-- Settles O28: the polls decide how `powerUp` ends, and however it ends it responds with that. -/
theorem powerUpPollsBothBits : Obligations.PowerUpPollsBothBits := by
  intro s ps rest hp hm ha
  refine ⟨fun hpowers => ?_, fun hnever => ?_⟩
  · obtain ⟨u, hexec, hkept⟩ := (runs_powerUp_powers hm hpowers).powerUp_responds hp ha
    exact ⟨_, hexec, ⟨rfl, rfl⟩, hkept⟩
  · obtain ⟨u, hexec, hplayed, hsession, -⟩ := (runs_powerUp_never hm hnever).powerUp_responds hp ha
    exact ⟨_, hexec, ⟨rfl, rfl⟩, hplayed, hsession⟩

/-- Settles O29: each operation is its transactions in order, and responds with what the last one gave. -/
theorem memoryAccessCompletes : Obligations.MemoryAccessCompletes := by
  intro s addr stale v rest hp hm
  refine ⟨?_, fun haligned => ?_, fun haligned => ?_⟩
  · exact (runs_memApInit hm).responds_done ran_memApInit rfl hp
  · exact (runs_memReadWord hm addr stale v haligned).responds_word (ran_memReadWord addr) rfl hp
  · exact (runs_memWriteWord hm addr v haligned).responds_done (ran_memWriteWord addr v) rfl hp

end Sys2Proof.Machine

/-! # The flash engine family (`44_flash_engine.md`): the ready wait, the mode switch, the erases, the writes, the update -/

/-! ## How an operation of the flash engine ends (R242, R304, R316) -/

namespace Sys2Proof.Machine

/-! ### Scripts that end either way -/

/-- From every parked state of configuration `cfg` in `P` that the script answers, `f` returns `v`, plays the script and leaves
a state in `Q`: `Plays` for an operation that completes or fails. -/
def Meets (cfg : Params) (P : State → Prop) (acts : List Act) (f : State → Res Unit) (v : Except ErrCode Unit)
    (Q : State → Prop) : Prop :=
  ∀ (s : State) (rest : List (Option Bool)), s.cfg = cfg → Parked s → P s → Answers acts rest s →
    ∃ t, f s = (v, t) ∧ Played acts rest s t ∧ Q t

section Rules

variable {α : Type} {cfg : Params} {P P' Q Q' : State → Prop} {as bs : List Act} {f k : State → Res Unit}
  {v w : Except ErrCode Unit}

theorem Runs.meets (h : Runs cfg as f v) (hQ : ∀ s, P s → Q (f s).2) : Meets cfg P as f v Q := by
  intro s rest hc hp hP ha
  obtain ⟨hv, ht⟩ := h s rest hc hp ha
  exact ⟨(f s).2, Prod.ext hv rfl, ht, hQ s hP⟩

/-- An operation that ends so from every parked state. -/
theorem Runs.meets_true (h : Runs cfg as f v) : Meets cfg (fun _ => True) as f v (fun _ => True) :=
  h.meets fun _ _ => trivial

theorem Plays.meets (h : Plays cfg P as f Q) : Meets cfg P as f (.ok ()) Q := by
  intro s rest hc hp hP ha
  obtain ⟨_, t, ht⟩ := h s rest hc hp hP ha
  exact ⟨t, ht⟩

theorem Plays.tryThen_meets {g : State → Res α} (h : Plays cfg P as g Q) (hk : Meets cfg Q bs k v Q') :
    Meets cfg P (as ++ bs) (fun s => Machine.tryThen (g s) fun _ => k) v Q' := by
  intro s rest hc hp hP ha
  obtain ⟨a, t, heq, ht, hQ⟩ := h s _ hc hp hP ha.split
  obtain ⟨u, hku, hu, hQ'⟩ := hk t rest (ht.cfg_eq.trans hc) ht.parked hQ (Answers.after ht)
  exact ⟨u, by simp only [heq, tryThen_ok, hku], ht.append hu, hQ'⟩

theorem Runs.tryThen_meets {g : State → Res α} {k : α → State → Res Unit} {a : α} (h : Runs cfg as g (.ok a))
    (hQ : ∀ s, P s → Q (g s).2) (hk : Meets cfg Q bs (k a) v Q') :
    Meets cfg P (as ++ bs) (fun s => Machine.tryThen (g s) k) v Q' := by
  intro s rest hc hp hP ha
  obtain ⟨hv, ht⟩ := h s _ hc hp ha.split
  have hg : g s = (.ok a, (g s).2) := Prod.ext hv rfl
  obtain ⟨u, hku, hu, hQ'⟩ := hk (g s).2 rest (ht.cfg_eq.trans hc) ht.parked (hQ s hP) (Answers.after ht)
  exact ⟨u, by dsimp only; rw [hg, tryThen_ok, hku], ht.append hu, hQ'⟩

theorem Meets.tryThen (h : Meets cfg P as f (.ok ()) Q) (hk : Meets cfg Q bs k v Q') :
    Meets cfg P (as ++ bs) (fun s => Machine.tryThen (f s) fun _ => k) v Q' :=
  Plays.tryThen_meets (fun s rest hc hp hP ha => ⟨(), h s rest hc hp hP ha⟩) hk

/-- What follows a failure does not run (R12). -/
theorem Meets.tryThen_error {c : ErrCode} {k : Unit → State → Res Unit} (h : Meets cfg P as f (.error c) Q) :
    Meets cfg P as (fun s => Machine.tryThen (f s) k) (.error c) Q := by
  intro s rest hc hp hP ha
  obtain ⟨t, heq, ht, hQ⟩ := h s rest hc hp hP ha
  exact ⟨t, by simp only [heq, Machine.tryThen_error], ht, hQ⟩

theorem Meets.after {g : State → State} (hg : Shows as g) (hP : ∀ s, P s → P' (g s)) (h : Meets cfg P' bs f v Q) :
    Meets cfg P (as ++ bs) (fun s => f (g s)) v Q := by
  intro s rest hc hp hPs ha
  have hs := hg s _ hp ha.split
  obtain ⟨t, heq, ht, hQ⟩ := h (g s) rest (hs.cfg_eq.trans hc) hs.parked (hP s hPs) (Answers.after hs)
  exact ⟨t, heq, hs.append ht, hQ⟩

theorem Meets.ret (v : Except ErrCode Unit) (h : ∀ s, P s → Q s) : Meets cfg P [] (fun s => (v, s)) v Q :=
  (Runs.pure cfg v).meets h

theorem Meets.congr {g : State → Res Unit} (h : Meets cfg P as f v Q) (hfg : ∀ s, s.cfg = cfg → P s → g s = f s) :
    Meets cfg P as g v Q := by
  intro s rest hc hp hP ha
  rw [hfg s hc hP]
  exact h s rest hc hp hP ha

theorem Meets.mono (h : Meets cfg P as f v Q) (hP : ∀ s, P' s → P s) (hQ : ∀ s, Q s → Q' s) :
    Meets cfg P' as f v Q' := by
  intro s rest hc hp hPs ha
  obtain ⟨t, heq, ht, hQs⟩ := h s rest hc hp (hP s hPs) ha
  exact ⟨t, heq, ht, hQ t hQs⟩

/-- The restoring switch behind a body: the body's error stays, else the switch decides (R242). -/
theorem Meets.finish {back : List Act} (h : Meets cfg P as f v Q)
    (hback : Runs cfg back (setControllerMode .readOnly) w) :
    Meets cfg P (as ++ back) (fun s => Machine.finish (f s)) (v.bind fun _ => w) (fun _ => True) := by
  intro s rest hc hp hP ha
  obtain ⟨t, heq, ht, -⟩ := h s _ hc hp hP ha.split
  obtain ⟨hw, hu⟩ := hback t rest (ht.cfg_eq.trans hc) ht.parked (Answers.after ht)
  refine ⟨(setControllerMode .readOnly t).2, ?_, ht.append hu, trivial⟩
  cases v with
  | ok _ => simp only [heq, Machine.finish, ← hw]; rfl
  | error c => simp only [heq, Machine.finish]; rfl

end Rules

/-! ### The response (R124, R300) -/

/-- `RSP_STATUS` of an operation without a value. -/
def resultStatus : Except ErrCode Unit → BitVec 8
  | .ok _ => statusOk
  | .error c => c.toByte

theorem respondUnit_responded (r : Res Unit) : Responded (resultStatus r.1) (respondUnit r) := by
  obtain ⟨c | a, s⟩ := r <;> exact ⟨rfl, rfl⟩

theorem respondUnit_session (r : Res Unit) : (respondUnit r).session = r.2.session := respond_session _

theorem respondUnit_seqRegs (r : Res Unit) : (respondUnit r).seqRegs = r.2.seqRegs := respond_seqRegs _

/-- What the host and the wire see of an operation whose end is known. -/
theorem Meets.ends {cfg : Params} {P Q : State → Prop} {as : List Act} {f : State → Res Unit} {v : Except ErrCode Unit}
    {s : State} {rest : List (Option Bool)} (h : Meets cfg P as f v Q) (hc : s.cfg = cfg) (hp : Parked s) (hP : P s)
    (hw : Worked s (f s).2) (ha : Answers as rest s) :
    Responded (resultStatus v) (respondUnit (f s)) ∧ Played as rest s (respondUnit (f s))
      ∧ (respondUnit (f s)).session = s.session := by
  obtain ⟨t, heq, ht, -⟩ := h s rest hc hp hP ha
  rw [heq] at hw ⊢
  refine ⟨respondUnit_responded (v, t), ht.respond _, ?_⟩
  rw [respondUnit_session]
  exact session_eq_of_parked hp ht.parked hw.session

/-- From `s` to `t` no sequencer register but `POLLS_LEFT` and `READY_RUN` moved (R36, R240). -/
def OnlyWaitRegsMoved (s t : State) : Prop :=
  t.seqRegs = { s.seqRegs with pollsLeft := t.seqRegs.pollsLeft, readyRun := t.seqRegs.readyRun }

theorem onlyWaitRegsMoved_waitStable : WaitStable OnlyWaitRegsMoved where
  toEngineStable := .of_wired (fun _ => rfl) (fun h k => by rw [OnlyWaitRegsMoved, k, h])
    fun s t h => by rw [OnlyWaitRegsMoved, h.seqRegs]
  polls _ _ := rfl
  run _ _ := rfl

theorem OnlyWaitRegsMoved.responded {s : State} {r : Res Unit} (h : OnlyWaitRegsMoved s r.2) :
    OnlyWaitRegsMoved s (respondUnit r) := by
  rw [OnlyWaitRegsMoved, respondUnit_seqRegs]
  exact h

end Sys2Proof.Machine

/-! ## The ready wait and the mode switch (R239 to R241) -/

namespace Sys2Proof.Machine

section Wait

variable {cfg : Params}

/-- Polls behind those of `before` that never complete a run of ready reads run out (R240). -/
theorem runs_readyPolls_never (hm : 1 ≤ cfg.engine.maxAttempts) (hn : wordAligned cfg.flash.nvmcReady = true)
    (ps before : List Poll) (hps : ∀ p ∈ ps, p.possible cfg)
    (hnot : ∀ j ≤ ps.length, j ≠ 0 → readyRunOf cfg (before ++ ps.take j) ≠ cfg.flash.readyConsecutive) :
    Runs cfg (readyPolls cfg ps) (readyPoll ps.length (readyRunOf cfg before)) (.error .eTimeout) := by
  induction ps generalizing before with
  | nil => exact Runs.pure cfg _
  | cons p ps ih =>
    obtain ⟨hp, hps⟩ := List.forall_mem_cons.1 hps
    have hgoing : readyRunOf cfg (before ++ [p]) ≠ cfg.flash.readyConsecutive := hnot 1 (by simp) (by simp)
    have hstep := readyRunOf_append_singleton cfg before p
    have hrest := ih (before ++ [p]) hps fun j hj _ => by simpa using hnot (j + 1) (by simpa using hj) (by simp)
    intro s rest hc hs ha
    cases ps with
    | nil =>
      obtain ⟨t, ht, heq⟩ := readyPoll_poll hm hn hp 0 (readyRunOf cfg before) hc hs ha
      rw [List.length_singleton, heq, ← hstep]
      simp only [hgoing, if_false]
      exact ⟨rfl, ht⟩
    | cons q qs =>
      have hnext := hrest.after ((shows_mapSeqRegs fun r => { r with pollsLeft := BitVec.ofNat 32 (q :: qs).length }).comp
        (shows_delay .readyPoll))
      obtain ⟨t, ht, heq⟩ := readyPoll_poll hm hn hp (q :: qs).length (readyRunOf cfg before) hc hs
        (Answers.split (bs := .pause .readyPoll :: readyPolls cfg (q :: qs)) ha)
      obtain ⟨hv, hu⟩ := hnext t rest (ht.cfg_eq.trans hc) ht.parked (Answers.after ht)
      rw [List.length_cons, heq, ← hstep]
      simp only [hgoing, if_false]
      exact ⟨hv, ht.append hu⟩

/-- A ready wait whose polls never settle times out (R240). -/
theorem runs_waitControllerReady_never (hm : 1 ≤ cfg.engine.maxAttempts)
    (hn : wordAligned cfg.flash.nvmcReady = true) {timeoutMs : Nat} {ps : List Poll} (h : NeverSettles cfg timeoutMs ps) :
    Runs cfg (readyPolls cfg ps) (waitControllerReady timeoutMs) (.error .eTimeout) := by
  obtain ⟨⟨hlen, hnot⟩, hps⟩ := h
  have hpolls := runs_readyPolls_never hm hn ps [] hps fun j hj _ => hnot j hj
  rw [hlen] at hpolls
  exact (hpolls.after ((shows_mapSeqRegs fun r => { r with pollsLeft := BitVec.ofNat 32 (polls cfg timeoutMs) }).comp
    (shows_mapSeqRegs fun r => { r with readyRun := 0#2 }))).congr fun s hc => by
      rw [waitControllerReady, hc]
      rfl

/-- A mode switch whose read-back does not show the mode (R241). -/
theorem runs_setControllerMode_refused (hm : 1 ≤ cfg.engine.maxAttempts) (hn : wordAligned cfg.flash.nvmcConfig = true)
    {mode : NvmcMode} {back : Word × Word} (h : ¬ ShowsMode cfg mode back) :
    Runs cfg (modeActs cfg mode back) (setControllerMode mode) (.error .eMode) := by
  have hrun := runs_setControllerMode hm mode back hn
  unfold ShowsMode at h
  rwa [if_neg h] at hrun

end Wait

/-! ### The statements of the ready wait and of the mode switch -/

theorem exec_waitControllerReady (timeoutMs : Word) (s : State) :
    exec (.waitControllerReady timeoutMs) s = .next (respondUnit (waitControllerReady timeoutMs.toNat s)) := rfl

/-- Settles O36: the polls decide how the wait ends; either way it moves its own two registers only. -/
theorem readyWaitOutcomes : Obligations.ReadyWaitOutcomes := by
  intro s timeoutMs ps rest hp hvalid hn ha
  obtain ⟨-, -, -, -, hm, -, hready, -⟩ := (validConfig_iff s.cfg).1 hvalid
  obtain ⟨hnready, -⟩ := hn
  have hexec := exec_waitControllerReady timeoutMs s
  have hw := worked_waitControllerReady timeoutMs.toNat s
  have hregs := (onlyWaitRegsMoved_waitStable.rel_waitControllerReady timeoutMs.toNat s).responded
  have hports := hostPortsKept_of_exec hexec rfl rfl
  refine ⟨fun hsettles => ?_, fun hnever => ?_⟩
  · obtain ⟨hresp, hplayed, hsession⟩ :=
      (runs_waitControllerReady hm hnready hready hsettles).meets_true.ends rfl hp trivial hw ha
    exact ⟨_, hexec, hresp, hplayed, hsession, hregs, hports⟩
  · obtain ⟨hresp, hplayed, hsession⟩ :=
      (runs_waitControllerReady_never hm hnready hnever).meets_true.ends rfl hp trivial hw ha
    exact ⟨_, hexec, hresp, hplayed, hsession, hregs, hports⟩

/-- Settles O37: the read-back decides the result. -/
theorem modeSwitchReadsBack : Obligations.ModeSwitchReadsBack := by
  intro s mode back rest hp hm hn ha
  obtain ⟨-, hnconfig, -⟩ := hn
  obtain ⟨t, hexec, hplayed, hsession, hseq, hports⟩ :=
    (runs_setControllerMode hm mode back hnconfig).responds (i := .setControllerMode mode) (g := fun _ => none)
      (ran_setControllerMode mode) rfl hp ha
  refine ⟨_, hexec, hplayed, fun hshown => ?_, fun hrefused => ?_, hsession, hseq, hports⟩
  · rw [ShowsMode] at hshown
    rw [if_pos hshown]
    exact ⟨rfl, rfl⟩
  · rw [ShowsMode] at hrefused
    rw [if_neg hrefused]
    exact ⟨rfl, rfl⟩

/-- Settles O51: a span of no bytes ends before the range check. -/
theorem emptySpanTouchesNothing : Obligations.EmptySpanTouchesNothing := by
  intro s a verify
  have hwrite : exec (.writeBuffer a 0#32) s = .next (respondDone s) := rfl
  have hupdate : exec (.updateFirmware a 0#32 verify) s = .next (respondDone s) := rfl
  exact ⟨⟨_, hwrite, ⟨rfl, rfl⟩, rfl⟩, _, hupdate, ⟨rfl, rfl⟩, rfl⟩

end Sys2Proof.Machine

/-! ## The operations that restore the mode (R242) -/

namespace Sys2Proof.Machine

/-! ### Their bodies -/

/-- What such an operation does between its precondition checks and the restoring switch (R243 to R246). -/
def restoringBody : Instr → State → Res Unit
  | .erasePage address => fun s => erasePageBody (alignDown address s.cfg.flash.pageSize) s
  | .flashWriteWord address data => flashWriteWordBody address data
  | .writeBuffer address length => writeBufferBody address length
  | .eraseAll => eraseAllBody
  | _ => fun s => (.ok (), s)

theorem restoringBody_erasePage (address : Word) (s : State) :
    restoringBody (.erasePage address) s = erasePageBody (alignDown address s.cfg.flash.pageSize) s := rfl

theorem restoringBody_eraseAll : restoringBody .eraseAll = eraseAllBody := rfl

theorem inFlash_iff (cfg : Params) (a : Word) :
    inFlash cfg a = true
      ↔ cfg.flash.flashBase ≤ a.toNat ∧ a.toNat < cfg.flash.flashBase + cfg.flash.flashSize := by
  simp only [inFlash, Bool.and_eq_true, decide_eq_true_eq]
  omega

/-- Once the checks have passed, the operation is its body and the restoring switch (R242). -/
theorem exec_restoring {i : Instr} {s : State} (h : passesChecks s.cfg i) :
    exec i s = .next (respondUnit (finish (restoringBody i s))) := by
  cases i with
  | erasePage address =>
    change Host.Outcome.next (respondUnit (erasePage address s)) = _
    rw [erasePage, if_pos ((inFlash_iff s.cfg address).2 h)]
    rfl
  | flashWriteWord address data =>
    change Host.Outcome.next (respondUnit (flashWriteWord address data s)) = _
    have haligned : wordAligned address = true := h
    rw [flashWriteWord, if_pos haligned]
    rfl
  | writeBuffer address length =>
    obtain ⟨hlen, hfit⟩ := h
    rw [exec_writeBuffer, writeBuffer, if_neg hlen, if_neg (by omega)]
    rfl
  | eraseAll => rfl
  | _ => exact h.elim

section Frames

variable {R : State → State → Prop}

theorem FlashStable.waitStable (hR : FlashStable R) : WaitStable R where
  toPollStable := hR.toPollStable
  run _ _ := hR.seq _ _

theorem WaitStable.ends_waitControllerReady (hR : WaitStable R) (timeoutMs : Nat) (s : State) :
    Ends R s (waitControllerReady timeoutMs s) :=
  (hR.ends_readyPoll _ _ _).after hR.toEngineStable (hR.trans (hR.polls _ s) (hR.run _ _))

theorem EngineStable.ends_sampleErased (hR : EngineStable R) (page : Word) (offs : List Word) (s : State) :
    Ends R s (sampleErased page offs s) := by
  induction offs generalizing s with
  | nil => exact hR.ends_ok _ s
  | cons off offs ih =>
    exact (hR.ends_memReadWord _ s).tryThen hR fun _ u => .ite (ih u) (hR.ends_error (by decide) u)

/-- A body without the buffered writer moves the ready wait's registers only (R36). -/
theorem WaitStable.ends_restoringBody (hR : WaitStable R) {i : Instr} (hi : readsBuffer i = false) (s : State) :
    Ends R s (restoringBody i s) := by
  have hE := hR.toEngineStable
  cases i with
  | erasePage address =>
    exact (hR.ends_waitControllerReady _ s).tryThen hE fun _ s1 => (hR.ends_setControllerMode _ s1).tryThen hE fun _ s2 =>
      (hR.ends_memWriteWord _ _ s2).tryThen hE fun _ s3 => .after hE (hR.delay _ s3) <|
        (hR.ends_waitControllerReady _ _).tryThen hE fun _ s4 => hE.ends_sampleErased _ _ s4
  | flashWriteWord address data =>
    exact (hR.ends_setControllerMode _ s).tryThen hE fun _ s1 => (hR.ends_memWriteWord _ _ s1).tryThen hE fun _ s2 =>
      hR.ends_waitControllerReady _ s2
  | eraseAll =>
    exact (hR.ends_waitControllerReady _ s).tryThen hE fun _ s1 => (hR.ends_setControllerMode _ s1).tryThen hE fun _ s2 =>
      (hR.ends_memWriteWord _ _ s2).tryThen hE fun _ s3 => .after hE (hR.delay _ s3) (hR.ends_waitControllerReady _ _)
  | writeBuffer => cases hi
  | _ => exact hR.ends_ok _ s

theorem BufferStable.ends_writeBufferBody (hR : BufferStable R) (address length : Word) (s : State) :
    Ends R s (writeBufferBody address length s) := by
  have hE := hR.toEngineStable
  exact (hR.ends_setControllerMode _ s).tryThen hE fun _ s1 => .after hE (hR.seq _ s1) <|
    (hR.ends_leadingWord _ _).tryThen hE fun _ s2 => (hR.ends_wholeWords _ _ s2).tryThen hE fun _ s3 =>
      (hR.ends_trailingWord _ s3).tryThen hE fun _ s4 => hR.ends_closeTail _ s4

theorem BufferStable.ends_restoringBody (hR : BufferStable R) (i : Instr) (s : State) :
    Ends R s (restoringBody i s) := by
  cases hi : readsBuffer i with
  | false => exact hR.waitStable.ends_restoringBody hi s
  | true =>
    cases i with
    | writeBuffer address length => exact hR.ends_writeBufferBody address length s
    | updateFirmware => exact hR.ends_ok _ s
    | _ => cases hi

end Frames

theorem worked_bufferStable : BufferStable Worked where
  refl := Worked.refl
  trans := Worked.trans
  transfer a p r d s := (ran_rawTransfer a p r d s).worked
  send bs s := (ran_sendBits bs s).worked
  link f s := (ran_mapLinkRegs f s).worked
  delay p s := (ran_delay p s).worked
  polls _ s := worked_mapSeqRegs _ s
  seq := worked_mapSeqRegs
  readBuf := worked_readBuf
  report := worked_progress

theorem worked_restoringBody (i : Instr) (s : State) : Worked s (restoringBody i s).2 :=
  (worked_bufferStable.ends_restoringBody i s).rel

/-- An operation that restores the mode ends with its body's error, else as the restoring switch does (R242). -/
theorem Meets.restores {i : Instr} {P Q : State → Prop} {as back : List Act} {v w : Except ErrCode Unit} {s : State}
    {rest : List (Option Bool)} (h : Meets s.cfg P as (restoringBody i) v Q)
    (hback : Runs s.cfg back (setControllerMode .readOnly) w) (hchecks : passesChecks s.cfg i) (hp : Parked s) (hP : P s)
    (ha : Answers (as ++ back) rest s) :
    ∃ t, exec i s = .next t ∧ Responded (resultStatus (v.bind fun _ => w)) t ∧ Played (as ++ back) rest s t
      ∧ t.session = s.session :=
  ⟨_, exec_restoring hchecks, (h.finish hback).ends rfl hp hP (worked_finish (worked_restoringBody i s)) ha⟩

/-- An operation without the buffered writer moves the ready wait's registers only (R36). -/
theorem onlyWaitRegsMoved_of_restoring {i : Instr} {s t : State} (hchecks : passesChecks s.cfg i)
    (hi : readsBuffer i = false) (hexec : exec i s = .next t) : OnlyWaitRegsMoved s t := by
  obtain rfl := Host.Outcome.next.inj ((exec_restoring hchecks).symm.trans hexec)
  have hR := onlyWaitRegsMoved_waitStable
  have hbody := (hR.ends_restoringBody hi s).rel
  have hrestore := hR.trans hbody (hR.ends_setControllerMode .readOnly _).rel
  refine OnlyWaitRegsMoved.responded ?_
  unfold finish
  dsimp only
  split <;> exact hrestore

/-! ### Pages (R10, R243) -/

/-- Aligning down to a power of two, in numbers (R10). -/
theorem alignDown_two_pow (a : Word) (k : Nat) : alignDown a (2 ^ k) = BitVec.ofNat 32 (a.toNat / 2 ^ k * 2 ^ k) := by
  apply BitVec.eq_of_getLsbD_eq
  intro i hi
  rw [← Nat.shiftRight_eq_div_pow, ← Nat.shiftLeft_eq]
  simp only [alignDown, BitVec.getLsbD_and, BitVec.getLsbD_not, BitVec.getLsbD_ofNat, Nat.testBit_two_pow_sub_one,
    Nat.testBit_shiftLeft, Nat.testBit_shiftRight, hi, decide_true, Bool.true_and]
  by_cases hk : i < k
  · simp [hk, show ¬ k ≤ i by omega]
  · simp [hk, show k ≤ i by omega, show k + (i - k) = i by omega, BitVec.testBit_toNat]

/-- The page size of a valid configuration is a power of two, of two bits at least (R340). -/
theorem pageSize_eq {cfg : Params} (h : validConfig cfg = true) : ∃ k, cfg.flash.pageSize = 2 ^ k ∧ 2 ≤ k := by
  obtain ⟨-, -, -, -, -, -, -, -, -, -, -, ⟨k, hk⟩, hmin, -⟩ := (validConfig_iff cfg).1 h
  refine ⟨k, hk, ?_⟩
  by_contra hlt
  have : 2 ^ k ≤ 2 ^ 1 := Nat.pow_le_pow_right (by omega) (by omega)
  omega

/-- The samples of a page stand at word addresses (R67, R243, R340). -/
theorem wordAligned_sample {cfg : Params} (h : validConfig cfg = true) (address : Word) {off : Word}
    (hoff : off ∈ cfg.flash.eraseVerifyOffsets) :
    wordAligned (alignDown address cfg.flash.pageSize + off) = true := by
  obtain ⟨k, hsize, hk⟩ := pageSize_eq h
  obtain ⟨-, -, -, -, -, -, -, -, -, -, -, -, -, -, -, -, hoffs, -⟩ := (validConfig_iff cfg).1 h
  obtain ⟨haligned, -⟩ := hoffs off hoff
  have hpage : (alignDown address cfg.flash.pageSize).setWidth 2 = 0#2 := by
    obtain ⟨j, rfl⟩ : ∃ j, k = 2 + j := ⟨k - 2, by omega⟩
    rw [hsize, alignDown_two_pow, Nat.pow_add, ← Nat.mul_assoc, Nat.mul_right_comm]
    apply BitVec.eq_of_toNat_eq
    simp only [BitVec.toNat_setWidth, BitVec.toNat_ofNat]
    omega
  rw [wordAligned, beq_iff_eq] at haligned ⊢
  rw [BitVec.setWidth_add _ _ (by omega), hpage, haligned]
  rfl

/-! ### What the parts of a body return -/

section Parts

variable {cfg : Params}

theorem maxAttempts_pos (h : validConfig cfg = true) : 1 ≤ cfg.engine.maxAttempts := by
  obtain ⟨-, -, -, -, hm, -⟩ := (validConfig_iff cfg).1 h
  exact hm

theorem Settles.runs (hvalid : validConfig cfg = true) (hn : NvmcAligned cfg) {timeoutMs : Nat} {ps : List Poll}
    (h : Settles cfg timeoutMs ps) : Runs cfg (readyPolls cfg ps) (waitControllerReady timeoutMs) (.ok ()) := by
  obtain ⟨-, -, -, -, hm, -, hready, -⟩ := (validConfig_iff cfg).1 hvalid
  obtain ⟨hnready, -⟩ := hn
  exact runs_waitControllerReady hm hnready hready h

theorem NeverSettles.runs (hvalid : validConfig cfg = true) (hn : NvmcAligned cfg) {timeoutMs : Nat} {ps : List Poll}
    (h : NeverSettles cfg timeoutMs ps) :
    Runs cfg (readyPolls cfg ps) (waitControllerReady timeoutMs) (.error .eTimeout) := by
  obtain ⟨hnready, -⟩ := hn
  exact runs_waitControllerReady_never (maxAttempts_pos hvalid) hnready h

theorem ShowsMode.runs (hvalid : validConfig cfg = true) (hn : NvmcAligned cfg) {mode : NvmcMode} {back : Word × Word}
    (h : ShowsMode cfg mode back) : Runs cfg (modeActs cfg mode back) (setControllerMode mode) (.ok ()) := by
  obtain ⟨-, hnconfig, -⟩ := hn
  exact runs_setControllerMode_shown (maxAttempts_pos hvalid) hnconfig h

theorem runs_modeRefused (hvalid : validConfig cfg = true) (hn : NvmcAligned cfg) {mode : NvmcMode} {back : Word × Word}
    (h : ¬ ShowsMode cfg mode back) :
    Runs cfg (modeActs cfg mode back) (setControllerMode mode) (.error .eMode) := by
  obtain ⟨-, hnconfig, -⟩ := hn
  exact runs_setControllerMode_refused (maxAttempts_pos hvalid) hnconfig h

/-- A switch answered by any read-back ends in some way (R241). -/
theorem exists_runs_mode (hvalid : validConfig cfg = true) (hn : NvmcAligned cfg) (mode : NvmcMode) (back : Word × Word) :
    ∃ w, Runs cfg (modeActs cfg mode back) (setControllerMode mode) w := by
  obtain ⟨-, hnconfig, -⟩ := hn
  exact ⟨_, runs_setControllerMode (maxAttempts_pos hvalid) mode back hnconfig⟩

/-! ### The two erases: a first wait, the mode, a trigger, a second wait (R243, R246) -/

/-- The part in front of the trigger. -/
def eraseStart (trigger : State → Res Unit) (s : State) : Res Unit :=
  tryThen (waitControllerReady s.cfg.flash.readyTimeoutMs s) fun _ s1 =>
    tryThen (setControllerMode .erase s1) fun _ => trigger

/-- The trigger register written, the settling delay, the second wait, and what follows it. -/
def eraseTrigger (reg : Params → Word) (value : Word) (settle : DelayName) (timeoutMs : Params → Nat)
    (check : State → Res Unit) (s : State) : Res Unit :=
  tryThen (memWriteWord (reg s.cfg) value s) fun _ s1 =>
    tryThen (waitControllerReady (timeoutMs (delay settle s1).cfg) (delay settle s1)) fun _ => check

/-- The trigger of a page erase and what follows it. -/
def pageTrigger (page : Word) : State → Res Unit :=
  eraseTrigger (·.flash.nvmcErasePage) page .eraseSettle (·.flash.erasePageTimeoutMs)
    fun s => sampleErased page s.cfg.flash.eraseVerifyOffsets s

/-- The trigger of erase-all and what follows it. -/
def chipTrigger : State → Res Unit :=
  eraseTrigger (·.flash.nvmcEraseAll) 1#32 .eraseAllSettle (·.flash.eraseAllTimeoutMs) fun s => (.ok (), s)

theorem erasePageBody_eq (page : Word) : erasePageBody page = eraseStart (pageTrigger page) := rfl

theorem tryThen_done (r : Res Unit) : tryThen r (fun _ s => ((.ok (), s) : Res Unit)) = r := by
  obtain ⟨c | a, s⟩ := r <;> rfl

theorem eraseAllBody_eq : eraseAllBody = eraseStart chipTrigger := by
  have htrigger : chipTrigger = fun s => tryThen (memWriteWord s.cfg.flash.nvmcEraseAll 1#32 s) fun _ s1 =>
      waitControllerReady (delay .eraseAllSettle s1).cfg.flash.eraseAllTimeoutMs (delay .eraseAllSettle s1) := by
    funext s
    simp only [chipTrigger, eraseTrigger, tryThen_done]
  rw [htrigger]
  rfl

variable {trigger check : State → Res Unit} {as bs : List Act} {v : Except ErrCode Unit}

theorem runs_eraseStart_never (hvalid : validConfig cfg = true) (hn : NvmcAligned cfg) {before : List Poll}
    (h : NeverSettles cfg cfg.flash.readyTimeoutMs before) :
    Runs cfg (readyPolls cfg before) (eraseStart trigger) (.error .eTimeout) :=
  (h.runs hvalid hn).tryThen_error.congr fun s hc => by rw [eraseStart, hc]

/-- Behind a first wait that settles the mode switch decides (R243). -/
theorem runs_eraseStart (hvalid : validConfig cfg = true) (hn : NvmcAligned cfg) {before : List Poll}
    (h : Settles cfg cfg.flash.readyTimeoutMs before)
    (hmode : Runs cfg as (fun s => tryThen (setControllerMode .erase s) fun _ => trigger) v) :
    Runs cfg (readyPolls cfg before ++ as) (eraseStart trigger) v :=
  ((h.runs hvalid hn).tryThen (k := fun _ s => tryThen (setControllerMode .erase s) fun _ => trigger) hmode).congr
    fun s hc => by rw [eraseStart, hc]

/-- Behind the trigger the second wait decides (R243, R246). -/
theorem runs_eraseTrigger (hvalid : validConfig cfg = true) {reg : Params → Word} {value : Word} {settle : DelayName}
    {timeoutMs : Params → Nat} (hreg : wordAligned (reg cfg) = true)
    (hwait : Runs cfg as (fun s => tryThen (waitControllerReady (timeoutMs cfg) s) fun _ => check) v) :
    Runs cfg (memWriteActs cfg (reg cfg) value ++ ([.pause settle] ++ as)) (eraseTrigger reg value settle timeoutMs check)
      v :=
  ((runs_memWriteWord (maxAttempts_pos hvalid) (reg cfg) value hreg).tryThen
    (k := fun _ s => tryThen (waitControllerReady (timeoutMs (delay settle s).cfg) (delay settle s)) fun _ => check)
    ((hwait.after (shows_delay settle)).congr fun s hc => by rw [delay_cfg, hc])).congr
      fun s hc => by rw [eraseTrigger, hc]

/-- Behind the trigger of a page erase the second wait and the samples decide (R243). -/
theorem runs_pageTrigger (hvalid : validConfig cfg = true) (hn : NvmcAligned cfg) {page : Word} {after : List Poll}
    (hafter : Settles cfg cfg.flash.erasePageTimeoutMs after)
    (hcheck : Runs cfg as (sampleErased page cfg.flash.eraseVerifyOffsets) v) :
    Runs cfg (memWriteActs cfg cfg.flash.nvmcErasePage page ++ ([.pause .eraseSettle] ++ (readyPolls cfg after ++ as)))
      (pageTrigger page) v := by
  obtain ⟨-, -, hreg, -⟩ := id hn
  exact runs_eraseTrigger hvalid hreg ((hafter.runs hvalid hn).tryThen
    (k := fun _ s => sampleErased page s.cfg.flash.eraseVerifyOffsets s) (hcheck.congr fun s hc => by rw [hc]))

theorem runs_pageTrigger_never (hvalid : validConfig cfg = true) (hn : NvmcAligned cfg) {page : Word} {after : List Poll}
    (hafter : NeverSettles cfg cfg.flash.erasePageTimeoutMs after) :
    Runs cfg (memWriteActs cfg cfg.flash.nvmcErasePage page ++ ([.pause .eraseSettle] ++ readyPolls cfg after))
      (pageTrigger page) (.error .eTimeout) := by
  obtain ⟨-, -, hreg, -⟩ := id hn
  exact runs_eraseTrigger hvalid hreg (hafter.runs hvalid hn).tryThen_error

/-- Behind the trigger of erase-all the second wait decides (R246). -/
theorem runs_chipTrigger (hvalid : validConfig cfg = true) (hn : NvmcAligned cfg) {after : List Poll}
    (hwait : Runs cfg (readyPolls cfg after) (waitControllerReady cfg.flash.eraseAllTimeoutMs) v) :
    Runs cfg (memWriteActs cfg cfg.flash.nvmcEraseAll 1#32 ++ ([.pause .eraseAllSettle] ++ readyPolls cfg after))
      chipTrigger v := by
  obtain ⟨-, -, -, hreg⟩ := id hn
  exact runs_eraseTrigger hvalid hreg (hwait.congr fun s _ => tryThen_done _)

/-- An erase that goes on behind its mode switch to the second wait (R243, R246). -/
theorem runs_erase (hvalid : validConfig cfg = true) (hn : NvmcAligned cfg) {before : List Poll} {into : Word × Word}
    (hbefore : Settles cfg cfg.flash.readyTimeoutMs before) (hinto : ShowsMode cfg .erase into)
    (htrigger : Runs cfg as trigger v) :
    Runs cfg (readyPolls cfg before ++ (modeActs cfg .erase into ++ as)) (eraseStart trigger) v :=
  runs_eraseStart hvalid hn hbefore ((hinto.runs hvalid hn).tryThen htrigger)

/-! ### The samples (R243) -/

/-- An erased sample brings the samples one on. -/
theorem Runs.sampleErased_cons (hm : 1 ≤ cfg.engine.maxAttempts) {page off : Word} {offs : List Word} {p : Word × Word}
    (haligned : wordAligned (page + off) = true) (hp : p.2 = cfg.flash.erasedWord)
    (h : Runs cfg bs (sampleErased page offs) v) :
    Runs cfg (memReadActs cfg (page + off) p.1 p.2 ++ bs) (sampleErased page (off :: offs)) v :=
  (runs_memReadWord hm (page + off) p.1 p.2 haligned).tryThen
    (k := fun w s => if w = s.cfg.flash.erasedWord then sampleErased page offs s else (.error .eEraseVerify, s))
    (h.congr fun s hc => by rw [hc, if_pos hp])

theorem runs_sampleErased (hm : 1 ≤ cfg.engine.maxAttempts) {page : Word} (offs : List Word) (ps : List (Word × Word))
    (haligned : ∀ off ∈ offs, wordAligned (page + off) = true) (hlen : ps.length = offs.length)
    (hps : ∀ p ∈ ps, p.2 = cfg.flash.erasedWord) :
    Runs cfg (sampleActs cfg page offs ps) (sampleErased page offs) (.ok ()) := by
  induction offs generalizing ps with
  | nil => exact Runs.pure cfg _
  | cons off offs ih =>
    obtain ⟨hoff, hoffs⟩ := List.forall_mem_cons.1 haligned
    cases ps with
    | nil => simp at hlen
    | cons p ps =>
      obtain ⟨hp, hps⟩ := List.forall_mem_cons.1 hps
      exact (ih ps hoffs (by simpa using hlen) hps).sampleErased_cons hm hoff hp

/-- The first sample that is not erased ends them (D25). -/
theorem runs_sampleErased_bad (hm : 1 ≤ cfg.engine.maxAttempts) {page : Word} (offs : List Word)
    (good : List (Word × Word)) (bad : Word × Word) (haligned : ∀ off ∈ offs, wordAligned (page + off) = true)
    (hlen : (good ++ [bad]).length ≤ offs.length) (hgood : ∀ p ∈ good, p.2 = cfg.flash.erasedWord)
    (hbad : bad.2 ≠ cfg.flash.erasedWord) :
    Runs cfg (sampleActs cfg page offs (good ++ [bad])) (sampleErased page offs) (.error .eEraseVerify) := by
  induction offs generalizing good with
  | nil => simp at hlen
  | cons off offs ih =>
    obtain ⟨hoff, hoffs⟩ := List.forall_mem_cons.1 haligned
    cases good with
    | nil =>
      have hnone : sampleActs cfg page offs [] = [] := by cases offs <;> rfl
      rw [List.nil_append, sampleActs, hnone]
      exact (runs_memReadWord hm (page + off) bad.1 bad.2 hoff).tryThen
        (k := fun w s => if w = s.cfg.flash.erasedWord then sampleErased page offs s else (.error .eEraseVerify, s))
        ((Runs.pure cfg _).congr fun s hc => by rw [hc, if_neg hbad])
    | cons p good =>
      obtain ⟨hp, hgood⟩ := List.forall_mem_cons.1 hgood
      exact (ih good hoffs (by simpa using hlen) hgood).sampleErased_cons hm hoff hp

/-! ### A flash word (R244) -/

/-- Behind the mode switch the write and its ready wait decide. -/
theorem runs_flashWriteWordBody (hvalid : validConfig cfg = true) (hn : NvmcAligned cfg) {address data : Word}
    {into : Word × Word} (haligned : wordAligned address = true) (hinto : ShowsMode cfg .write into)
    (hwait : Runs cfg as (waitControllerReady cfg.flash.writeWordTimeoutMs) v) :
    Runs cfg (modeActs cfg .write into ++ (memWriteActs cfg address data ++ as)) (flashWriteWordBody address data) v :=
  (hinto.runs hvalid hn).tryThen ((runs_memWriteWord (maxAttempts_pos hvalid) address data haligned).tryThen
    (k := fun _ s => waitControllerReady s.cfg.flash.writeWordTimeoutMs s) (hwait.congr fun s hc => by rw [hc]))

end Parts

/-! ### Whole bodies of the erases -/

section Erases

variable {cfg : Params}

/-- A page erase's body whose second wait settles ends as its samples do (R243). -/
theorem runs_erasePageBody_samples (hvalid : validConfig cfg = true) (hn : NvmcAligned cfg) {page : Word} {k : EraseTalk}
    {v : Except ErrCode Unit} (hbefore : Settles cfg cfg.flash.readyTimeoutMs k.before)
    (hinto : ShowsMode cfg .erase k.into) (hafter : Settles cfg cfg.flash.erasePageTimeoutMs k.after)
    (hsamples : Runs cfg (sampleActs cfg page cfg.flash.eraseVerifyOffsets k.samples)
      (sampleErased page cfg.flash.eraseVerifyOffsets) v) :
    Runs cfg (readyPolls cfg k.before ++ modeActs cfg .erase k.into ++ memWriteActs cfg cfg.flash.nvmcErasePage page
      ++ [.pause .eraseSettle] ++ readyPolls cfg k.after ++ sampleActs cfg page cfg.flash.eraseVerifyOffsets k.samples)
      (erasePageBody page) v := by
  rw [erasePageBody_eq]
  simp only [List.append_assoc]
  exact runs_erase hvalid hn hbefore hinto (runs_pageTrigger hvalid hn hafter hsamples)

/-- The body of a page erase that did erase the page. -/
theorem EraseTalk.erases.runs (hvalid : validConfig cfg = true) (hn : NvmcAligned cfg) {k : EraseTalk}
    (h : k.erases cfg) (address : Word) :
    Runs cfg (readyPolls cfg k.before ++ modeActs cfg .erase k.into
      ++ memWriteActs cfg cfg.flash.nvmcErasePage (alignDown address cfg.flash.pageSize) ++ [.pause .eraseSettle]
      ++ readyPolls cfg k.after
      ++ sampleActs cfg (alignDown address cfg.flash.pageSize) cfg.flash.eraseVerifyOffsets k.samples)
      (erasePageBody (alignDown address cfg.flash.pageSize)) (.ok ()) := by
  obtain ⟨hbefore, hinto, hafter, hlen, herased⟩ := h
  exact runs_erasePageBody_samples hvalid hn hbefore hinto hafter (runs_sampleErased (maxAttempts_pos hvalid) _ _
    (fun off hoff => wordAligned_sample hvalid address hoff) hlen herased)

/-- An erase-all's body whose second wait settles (R246). -/
theorem runs_eraseAllBody (hvalid : validConfig cfg = true) (hn : NvmcAligned cfg) {before after : List Poll}
    {into : Word × Word} (hbefore : Settles cfg cfg.flash.readyTimeoutMs before) (hinto : ShowsMode cfg .erase into)
    (hafter : Settles cfg cfg.flash.eraseAllTimeoutMs after) :
    Runs cfg (readyPolls cfg before ++ modeActs cfg .erase into ++ memWriteActs cfg cfg.flash.nvmcEraseAll 1#32
      ++ [.pause .eraseAllSettle] ++ readyPolls cfg after) eraseAllBody (.ok ()) := by
  rw [eraseAllBody_eq]
  simp only [List.append_assoc]
  exact runs_erase hvalid hn hbefore hinto (runs_chipTrigger hvalid hn (hafter.runs hvalid hn))

end Erases

/-! ### The statements of the erases and of the flash word -/

/-- The body of a page erase, as the operation takes it up from a state of its configuration. -/
theorem Runs.erasePage_restoring {cfg : Params} {address : Word} {as : List Act} {v : Except ErrCode Unit}
    (h : Runs cfg as (erasePageBody (alignDown address cfg.flash.pageSize)) v) :
    Meets cfg (fun _ => True) as (restoringBody (.erasePage address)) v (fun _ => True) :=
  (h.congr fun s hc => by rw [restoringBody_erasePage, hc]).meets_true

/-- Settles O38: the body runs to its last sample, and the restoring switch takes. -/
theorem erasePageCompletes : Obligations.ErasePageCompletes := by
  intro s address k rest hp hvalid hn hbase hsize hk ha
  obtain ⟨herases, hback⟩ := hk
  have hchecks : passesChecks s.cfg (.erasePage address) := ⟨hbase, by omega⟩
  obtain ⟨t, hexec, hresp, hplayed, hsession⟩ :=
    (herases.runs hvalid hn address).erasePage_restoring.restores (hback.runs hvalid hn) hchecks hp trivial ha
  exact ⟨t, hexec, hresp, hplayed, hsession, onlyWaitRegsMoved_of_restoring hchecks rfl hexec,
    hostPortsKept_of_exec hexec rfl rfl⟩

/-- Settles O39: the body ends with the bad sample, and its code is the operation's. -/
theorem eraseSampleFails : Obligations.EraseSampleFails := by
  intro s address k good bad rest hp hvalid hn hbase hsize hbefore hinto hafter hsamples hlen hgood hbad ha
  obtain ⟨w, hback⟩ := exists_runs_mode hvalid hn .readOnly k.back
  have hruns := runs_sampleErased_bad (maxAttempts_pos hvalid) _ good bad
    (fun off hoff => wordAligned_sample hvalid address hoff) (hsamples ▸ hlen) hgood hbad
  rw [← hsamples] at hruns
  exact (runs_erasePageBody_samples hvalid hn hbefore hinto hafter hruns).erasePage_restoring.restores hback
    ⟨hbase, by omega⟩ hp trivial ha

/-- Settles O41: mode, write and ready wait, and the restoring switch takes. -/
theorem flashWriteWordCompletes : Obligations.FlashWriteWordCompletes := by
  intro s address data into back ps rest hp hvalid hn haligned hinto hps hback acts ha
  have hbody := runs_flashWriteWordBody hvalid hn (data := data) haligned hinto (hps.runs hvalid hn)
  rw [← List.append_assoc] at hbody
  have hchecks : passesChecks s.cfg (.flashWriteWord address data) := haligned
  obtain ⟨t, hexec, hresp, hplayed, hsession⟩ :=
    (hbody.meets_true (f := restoringBody (.flashWriteWord address data))).restores (hback.runs hvalid hn) hchecks hp
      trivial ha
  exact ⟨t, hexec, hresp, hplayed, hsession, onlyWaitRegsMoved_of_restoring hchecks rfl hexec,
    hostPortsKept_of_exec hexec rfl rfl⟩

/-- Settles O42: the page erase's pattern with the whole-chip trigger. -/
theorem eraseAllCompletes : Obligations.EraseAllCompletes := by
  intro s before after into back rest hp hvalid hn hbefore hinto hafter hback acts ha
  have hchecks : passesChecks s.cfg .eraseAll := trivial
  obtain ⟨t, hexec, hresp, hplayed, hsession⟩ :=
    ((runs_eraseAllBody hvalid hn hbefore hinto hafter).meets_true (f := restoringBody .eraseAll)).restores
      (hback.runs hvalid hn) hchecks hp trivial ha
  exact ⟨t, hexec, hresp, hplayed, hsession, onlyWaitRegsMoved_of_restoring hchecks rfl hexec,
    hostPortsKept_of_exec hexec rfl rfl⟩

end Sys2Proof.Machine

/-! ## A buffered write up to its first ready wait (R242, R245) -/

namespace Sys2Proof.Machine

/-- The host lends buffer `m` (R127). -/
def HoldsBuffer (m : Memory) (s : State) : Prop := s.inputs.buffer = m

section Writer

variable {cfg : Params} {ps : List Poll} {m : Memory} {address length lead : Word} {since reported : Nat}
  {as bs : List Act} {v : Except ErrCode Unit} {Q : State → Prop}

/-! ### Behind a word, no wait due or one that times out -/

theorem WriterAt.counted {cur : Word} {idx : Nat} {s : State} (h : WriterAt m cur idx since reported s)
    (hfit : since + 1 < 2 ^ 32) :
    WriterAt m cur idx (since + 1) reported (s.mapSeqRegs fun r => { r with sincePoll := r.sincePoll + 1#32 }) := by
  refine ⟨h.buffer, h.cur, h.idx, ?_, h.reported⟩
  rw [mapSeqRegs_seqRegs, BitVec.toNat_add, h.since, BitVec.toNat_ofNat]
  omega

theorem meets_afterWord_quiet {cur : Word} {idx : Nat} (hquiet : since + 1 < cfg.flash.writePollIntervalWords)
    (hfit : since + 1 < 2 ^ 32) :
    Meets cfg (WriterAt m cur idx since reported) (reportActs cfg length idx reported) (afterWord length) (.ok ())
      (WriterAt m cur idx (since + 1) (nextReported cfg idx reported)) := by
  have hcount : Meets cfg (WriterAt m cur idx since reported) [] countWord (.ok ())
      (WriterAt m cur idx (since + 1) reported) := by
    refine ((Meets.ret (.ok ()) fun _ => id).after (shows_mapSeqRegs _) fun s h => h.counted hfit).congr fun s hc h => ?_
    simp only [countWord, (h.counted hfit).since, mapSeqRegs_cfg, hc, Nat.ne_of_lt hquiet, if_false]
  exact (hcount.tryThen (plays_reportDue length).meets).congr fun s _ _ => afterWord_eq length s

theorem meets_afterWord_never
    (hnever : Runs cfg as (waitControllerReady cfg.flash.writeWordTimeoutMs) (.error .eTimeout))
    {cur : Word} {idx : Nat} (hdue : since + 1 = cfg.flash.writePollIntervalWords) (hfit : since + 1 < 2 ^ 32) :
    Meets cfg (WriterAt m cur idx since reported) as (afterWord length) (.error .eTimeout) (fun _ => True) := by
  have hcount : Meets cfg (WriterAt m cur idx since reported) as countWord (.error .eTimeout) (fun _ => True) := by
    refine ((hnever.meets_true.after (P := WriterAt m cur idx since reported) (as := [])
      ((shows_mapSeqRegs fun r => { r with sincePoll := r.sincePoll + 1#32 }).comp
        (shows_mapSeqRegs fun r => { r with sincePoll := 0#32 })) fun _ _ => trivial)).congr fun s hc h => ?_
    simp only [countWord, (h.counted hfit).since, mapSeqRegs_cfg, hc, hdue, if_true]
  exact hcount.tryThen_error.congr fun s _ _ => afterWord_eq length s

/-! ### One word, whatever follows it -/

/-- The span's j-th word spliced is written, and then `afterWord` decides (R245). -/
theorem meets_writeSpliced (hm : 1 ≤ cfg.engine.maxAttempts) {taken cur : Word} {idx j : Nat}
    (hdone : idx + taken.toNat = spanDone address length j)
    (hafter : Meets cfg (WriterAt m (spanAddr address (j + 1)) (spanDone address length j) since reported) as
      (afterWord length) v Q) :
    Meets cfg (fun s => WriterAt m cur idx since reported s ∧ s.seqRegs.word = spanWord address length lead m j)
      (memWriteActs cfg (spanAddr address j) (spanWord address length lead m j) ++ as)
      (writeSpliced (spanAddr address j) length taken) v Q := by
  have hmoved : ∀ s, WriterAt m cur idx since reported s →
      WriterAt m (spanAddr address (j + 1)) (spanDone address length j) since reported
        (s.mapSeqRegs fun r => { r with cur := spanAddr address j + 4#32, idx := r.idx + taken }) := by
    refine fun s h => ⟨h.buffer, spanAddr_succ address j, ?_, h.since, h.reported⟩
    have hlt : spanDone address length j < 2 ^ 32 := spanBefore_lt address length (j + 1)
    rw [mapSeqRegs_seqRegs, BitVec.toNat_add, h.idx, hdone]
    exact Nat.mod_eq_of_lt hlt
  exact (((plays_memWriteWord hm (wordAligned_spanAddr address j)).tryThen_meets
    (hafter.after (shows_mapSeqRegs _) hmoved)).mono (fun s h => h.1) fun s => id).congr
      fun s _ h => by rw [writeSpliced, h.2]

theorem meets_leadingWord (hm : 1 ≤ cfg.engine.maxAttempts) (hal : address.setWidth 2 ≠ 0#2) (lead : Word × Word)
    (hafter : Meets cfg (WriterAt m (spanAddr address 1) (spanDone address length 0) 0 0) as (afterWord length) v Q) :
    Meets cfg (WriterAt m address 0 0 0)
      (leadReadActs cfg address lead
        ++ (memWriteActs cfg (spanAddr address 0) (spanWord address length lead.2 m 0) ++ as))
      (leadingWord length) v Q := by
  have hlane : (address.setWidth 2).toNat ≠ 0 := fun h => hal (BitVec.eq_of_toNat_eq (by simpa using h))
  have hspliced : ∀ s, WriterAt m address 0 0 0 s → _ := fun s h =>
    splice_leading (s := s.mapSeqRegs fun r => { r with word := lead.2 }) (length := length) (lead := lead.2) hlane
      ⟨h.buffer, h.cur, h.idx, h.since, h.reported⟩ rfl
  have hword := (meets_writeSpliced (idx := spanDone address length 0) (taken := 0#32) hm rfl hafter).after
    ((shows_mapSeqRegs fun r => { r with word := lead.2 }).comp
      (.of_loaded fun s => spliceBytes_loaded length (4 - (address.setWidth 2).toNat) (address.setWidth 2).toNat s))
    hspliced
  have hread := (runs_memReadWord hm (spanAddr address 0) lead.1 lead.2 (wordAligned_spanAddr address 0)).tryThen_meets
    (P := WriterAt m address 0 0 0) (k := fun v s1 => writeSpliced (spanAddr address 0) length 0#32
      (spliceBytes length (4 - (address.setWidth 2).toNat) (address.setWidth 2).toNat
        (s1.mapSeqRegs fun r => { r with word := v })))
    (fun s hs => (ran_memReadWord (spanAddr address 0) s).wired.keepsWriter hs) hword
  rw [leadReadActs, if_neg hal, ← spanAddr_zero]
  exact hread.congr fun s _ h => by simp only [leadingWord, h.cur, hlane, if_false, spanAddr_zero]

theorem meets_wholeWord (hm : 1 ≤ cfg.engine.maxAttempts) {j : Nat} (hlane : (address.setWidth 2).toNat ≤ 4 * j)
    (hleft : 4 ≤ length.toNat - spanBefore address length j)
    (hafter : Meets cfg (WriterAt m (spanAddr address (j + 1)) (spanBefore address length (j + 1)) since reported) as
      (afterWord length) v Q) :
    Meets cfg (WriterAt m (spanAddr address j) (spanBefore address length j) since reported)
      (memWriteActs cfg (spanAddr address j) (spanWord address length lead m j) ++ as)
      (fun s => writeSpliced s.seqRegs.cur length 4#32 (loadLanes 4 0 s)) v Q := by
  have hdone : spanBefore address length j + (4#32).toNat = spanDone address length j := by
    simp only [spanDone, spanBefore, BitVec.toNat_ofNat] at hleft ⊢
    omega
  exact ((meets_writeSpliced hm hdone hafter).after (.of_loaded fun s => loadLanes_loaded 4 0 s)
    fun s h => load_whole hlane hleft h).congr fun s _ h => by rw [h.cur]

theorem meets_trailingWord (hm : 1 ≤ cfg.engine.maxAttempts) {j : Nat} (hlane : (address.setWidth 2).toNat ≤ 4 * j)
    (hmore : spanBefore address length j < length.toNat)
    (hafter : Meets cfg (WriterAt m (spanAddr address j) (spanDone address length j) since reported) as (afterWord length)
      v Q) :
    Meets cfg (WriterAt m (spanAddr address j) (spanBefore address length j) since reported)
      (memWriteActs cfg (spanAddr address j) (spanWord address length lead m j) ++ as) (trailingWord length) v Q := by
  have hspliced : ∀ s, WriterAt m (spanAddr address j) (spanBefore address length j) since reported s → _ :=
    fun s h => splice_trailing (s := s.mapSeqRegs fun r => { r with word := 0xFFFFFFFF#32 }) (lead := lead) hlane
      ⟨h.buffer, h.cur, h.idx, h.since, h.reported⟩ rfl
  refine (((plays_memWriteWord hm (w := spanWord address length lead m j)
    (wordAligned_spanAddr address j)).tryThen_meets hafter).after
      ((shows_mapSeqRegs fun r => { r with word := 0xFFFFFFFF#32 }).comp
        (.of_loaded fun s => spliceBytes_loaded length 4 0 s)) fun s h => (hspliced s h).1).congr fun s _ h => ?_
  simp only [trailingWord, h.idx, hmore, if_true, h.cur, (hspliced s h).2]

/-! ### Words without a wait between them -/

/-- The script of one word more, no wait due behind it. -/
theorem spanActs_quiet_succ (n j : Nat) (hquiet : since + 1 < cfg.flash.writePollIntervalWords) :
    spanActs cfg address length lead m ps (n + 1) j since reported
      = (let rest := spanActs cfg address length lead m ps n (j + 1) (since + 1)
           (nextReported cfg (spanDone address length j) reported)
         (memWriteActs cfg (spanAddr address j) (spanWord address length lead m j)
            ++ reportActs cfg length (spanDone address length j) reported ++ rest.1, rest.2)) := by
  have hnot : (since + 1 == cfg.flash.writePollIntervalWords) = false := by simp; omega
  rw [spanActs_succ, wordActs, waitActs, nextSince, hnot]
  rfl

/-- The whole words of a span up to a point where no wait was due; from there on anything may follow. -/
theorem meets_wholeWords_quiet (hm : 1 ≤ cfg.engine.maxAttempts) (q fuel j : Nat)
    (hlane : (address.setWidth 2).toNat ≤ 4 * j) (hleft : 4 * q ≤ length.toNat - spanBefore address length j)
    (hquiet : since + q < cfg.flash.writePollIntervalWords) (hfit : since + q < 2 ^ 32)
    (h : Meets cfg
      (WriterAt m (spanAddr address (j + q)) (spanBefore address length (j + q)) (since + q)
        (spanActs cfg address length lead m ps q j since reported).2.2)
      bs (wholeWords length fuel) v Q) :
    Meets cfg (WriterAt m (spanAddr address j) (spanBefore address length j) since reported)
      ((spanActs cfg address length lead m ps q j since reported).1 ++ bs) (wholeWords length (fuel + q)) v Q := by
  induction q generalizing j since reported with
  | zero => exact h
  | succ q ih =>
    have hnext : spanBefore address length (j + 1) = spanBefore address length j + 4 := by
      simp only [spanBefore] at hleft ⊢
      omega
    rw [spanActs_quiet_succ q j (by omega)] at h ⊢
    have hrest := ih (j + 1) (since := since + 1) (reported := nextReported cfg (spanDone address length j) reported)
      (by omega) (by omega) (by omega) (by omega)
      (by simpa only [show j + (q + 1) = j + 1 + q by omega, show since + (q + 1) = since + 1 + q by omega] using h)
    have hword := meets_wholeWord (m := m) (length := length) (lead := lead) hm hlane (by omega)
      (meets_afterWord_quiet (since := since) (reported := reported) (by omega) (by omega))
    dsimp only
    rw [List.append_assoc]
    exact (hword.tryThen hrest).congr fun s _ hs => by
      rw [show fuel + (q + 1) = fuel + q + 1 by omega, wholeWords, hs.idx, if_pos (by omega)]

/-- Where fewer than four bytes are left no whole word follows. -/
theorem meets_wholeWords_none {j : Nat} (fuel : Nat) (hlast : length.toNat - spanBefore address length j < 4) :
    Meets cfg (WriterAt m (spanAddr address j) (spanBefore address length j) since reported) [] (wholeWords length fuel)
      (.ok ()) (WriterAt m (spanAddr address j) (spanBefore address length j) since reported) := by
  refine (Meets.ret (.ok ()) fun _ => id).congr fun s _ h => ?_
  cases fuel with
  | zero => rfl
  | succ fuel => rw [wholeWords, h.idx, if_neg (by omega)]

/-- The whole and the trailing words of a span, behind the leading one (R245). -/
def restWords (length : Word) (s : State) : Res Unit :=
  tryThen (wholeWords length (length.toNat / 4) s) fun _ => trailingWord length

theorem wholeCount_le (address length : Word) (j : Nat) :
    4 * wholeCount address length j ≤ length.toNat - spanBefore address length j
      ∧ wholeCount address length j ≤ length.toNat / 4 ∧ length.toNat / 4 < 2 ^ 30 := by
  have hlen := length.isLt
  simp only [wholeCount]
  omega

/-- Without a wait every word counts (R245). -/
theorem spanActs_quiet_since (n j : Nat) (hquiet : since + n < cfg.flash.writePollIntervalWords) :
    (spanActs cfg address length lead m ps n j since reported).2.1 = since + n := by
  induction n generalizing j since reported with
  | zero => rfl
  | succ n ih =>
    rw [spanActs_quiet_succ n j (by omega)]
    exact (ih _ (by omega)).trans (by omega)

/-- A script in two parts, no wait due in the first. -/
theorem spanActs_quiet_add (a b j : Nat) (hquiet : since + a < cfg.flash.writePollIntervalWords) :
    spanActs cfg address length lead m ps (a + b) j since reported
      = (let first := spanActs cfg address length lead m ps a j since reported
         let rest := spanActs cfg address length lead m ps b (j + a) (since + a) first.2.2
         (first.1 ++ rest.1, rest.2)) := by
  rw [spanActs_add]
  dsimp only
  rw [spanActs_quiet_since a j hquiet]

/-- All the whole words of a span, if no wait is due in them. -/
theorem meets_wholeWords_all (hm : 1 ≤ cfg.engine.maxAttempts) {j : Nat} (hlane : (address.setWidth 2).toNat ≤ 4 * j)
    (hquiet : since + wholeCount address length j < cfg.flash.writePollIntervalWords) (hsince : since ≤ 1) :
    Meets cfg (WriterAt m (spanAddr address j) (spanBefore address length j) since reported)
      (spanActs cfg address length lead m ps (wholeCount address length j) j since reported).1
      (wholeWords length (length.toNat / 4)) (.ok ())
      (WriterAt m (spanAddr address (j + wholeCount address length j))
        (spanBefore address length (j + wholeCount address length j)) (since + wholeCount address length j)
        (spanActs cfg address length lead m ps (wholeCount address length j) j since reported).2.2) := by
  obtain ⟨hleft, hfuel, hfit⟩ := wholeCount_le address length j
  have hlast : length.toNat - spanBefore address length (j + wholeCount address length j) < 4 := by
    simp only [wholeCount, spanBefore]
    omega
  have hwords := meets_wholeWords_quiet (ps := ps) (m := m) (lead := lead) (reported := reported) hm
    (wholeCount address length j)
    (length.toNat / 4 - wholeCount address length j) j hlane hleft hquiet (by omega) (meets_wholeWords_none _ hlast)
  rwa [Nat.sub_add_cancel hfuel, List.append_nil] at hwords

/-- The last word of a span, if no whole word is left (R245). -/
theorem meets_trailingWord_quiet (hm : 1 ≤ cfg.engine.maxAttempts) {j : Nat}
    (hlane : (address.setWidth 2).toNat ≤ 4 * j)
    (hquiet : since + tailCount length (spanBefore address length j) < cfg.flash.writePollIntervalWords)
    (hfit : since + 1 < 2 ^ 32) :
    Meets cfg (WriterAt m (spanAddr address j) (spanBefore address length j) since reported)
      (spanActs cfg address length lead m ps (tailCount length (spanBefore address length j)) j since reported).1
      (trailingWord length) (.ok ())
      (fun s => ∃ cur idx reported,
        WriterAt m cur idx (since + tailCount length (spanBefore address length j)) reported s) := by
  unfold tailCount at hquiet ⊢
  by_cases hmore : spanBefore address length j < length.toNat
  · simp only [hmore, if_true] at hquiet ⊢
    rw [spanActs_quiet_succ 0 j hquiet]
    simp only [spanActs, List.append_nil]
    exact (meets_trailingWord hm hlane hmore (meets_afterWord_quiet hquiet hfit)).mono (fun _ => id)
      fun s h => ⟨_, _, _, h⟩
  · simp only [hmore, if_false, spanActs]
    refine (Meets.ret (.ok ()) fun s h => ⟨_, _, _, h⟩).congr fun s _ h => ?_
    rw [trailingWord, h.idx, if_neg hmore]

/-- The words behind the leading one, if no wait is due in them. -/
theorem meets_restWords_quiet (hm : 1 ≤ cfg.engine.maxAttempts) {j : Nat} (hlane : (address.setWidth 2).toNat ≤ 4 * j)
    (hquiet : since + restCount address length j < cfg.flash.writePollIntervalWords) (hsince : since ≤ 1) :
    Meets cfg (WriterAt m (spanAddr address j) (spanBefore address length j) since reported)
      (spanActs cfg address length lead m ps (restCount address length j) j since reported).1 (restWords length) (.ok ())
      (fun s => ∃ cur idx reported, WriterAt m cur idx (since + restCount address length j) reported s) := by
  have hwords := wholeCount_le address length j
  unfold restCount at hquiet ⊢
  rw [spanActs_quiet_add _ _ _ (by omega), ← Nat.add_assoc]
  exact (meets_wholeWords_all hm hlane (by omega) (by omega)).tryThen
    (meets_trailingWord_quiet hm (by omega) (by omega) (by omega))

/-- The words behind the leading one up to the one that starts a wait that times out (R245, R304). -/
theorem meets_restWords_never (hm : 1 ≤ cfg.engine.maxAttempts)
    (hnever : Runs cfg as (waitControllerReady cfg.flash.writeWordTimeoutMs) (.error .eTimeout)) {j q : Nat}
    (hlane : (address.setWidth 2).toNat ≤ 4 * j) (hdue : since + q + 1 = cfg.flash.writePollIntervalWords)
    (hq : q < restCount address length j) (hsince : since ≤ 1) :
    Meets cfg (WriterAt m (spanAddr address j) (spanBefore address length j) since reported)
      ((spanActs cfg address length lead m ps q j since reported).1
        ++ (memWriteActs cfg (spanAddr address (j + q)) (spanWord address length lead m (j + q)) ++ as))
      (restWords length) (.error .eTimeout) (fun _ => True) := by
  obtain ⟨hleft, hfuel, hfit⟩ := wholeCount_le address length j
  by_cases hwhole : q < wholeCount address length j
  · -- the wait stands behind a whole word
    obtain ⟨fuel, hfuel⟩ : ∃ fuel, length.toNat / 4 = fuel + 1 + q := ⟨length.toNat / 4 - q - 1, by omega⟩
    have hhere : 4 ≤ length.toNat - spanBefore address length (j + q) := by
      simp only [spanBefore] at hleft ⊢
      omega
    have hword : ∀ reported, Meets cfg
        (WriterAt m (spanAddr address (j + q)) (spanBefore address length (j + q)) (since + q) reported)
        (memWriteActs cfg (spanAddr address (j + q)) (spanWord address length lead m (j + q)) ++ as)
        (wholeWords length (fuel + 1)) (.error .eTimeout) (fun _ => True) := fun reported =>
      (meets_wholeWord hm (by omega) hhere (meets_afterWord_never hnever hdue (by omega))).tryThen_error.congr
        fun s _ h => by rw [wholeWords, h.idx, if_pos hhere]
    have hwords := meets_wholeWords_quiet (ps := ps) (lead := lead) (reported := reported) hm q (fuel + 1) j hlane
      (by omega) (by omega) (by omega) (hword _)
    rw [← hfuel] at hwords
    exact hwords.tryThen_error
  · -- the wait stands behind the trailing word
    have htail : spanBefore address length (j + wholeCount address length j) < length.toNat
        ∧ q = wholeCount address length j := by
      unfold restCount tailCount at hq
      split at hq <;> omega
    obtain ⟨hmore, rfl⟩ := htail
    exact (meets_wholeWords_all hm hlane (by omega) hsince).tryThen
      (meets_trailingWord hm (by omega) hmore (meets_afterWord_never hnever hdue (by omega)))

/-! ### The leading word and the whole span -/

/-- The leading word, if no wait is due behind it (R245). -/
theorem meets_leadingWord_quiet (hm : 1 ≤ cfg.engine.maxAttempts) (lead : Word × Word)
    (hquiet : leadCount address < cfg.flash.writePollIntervalWords) :
    Meets cfg (WriterAt m address 0 0 0)
      (leadReadActs cfg address lead ++ (spanActs cfg address length lead.2 m ps (leadCount address) 0 0 0).1)
      (leadingWord length) (.ok ())
      (WriterAt m (spanAddr address (leadCount address)) (spanBefore address length (leadCount address))
        (leadCount address) (spanActs cfg address length lead.2 m ps (leadCount address) 0 0 0).2.2) := by
  by_cases hal : address.setWidth 2 = 0#2
  · have hcount : leadCount address = 0 := if_pos hal
    have hcur : spanAddr address 0 = address := by rw [spanAddr_zero, alignDown_of_aligned hal]
    have hidx : spanBefore address length 0 = 0 := by simp [spanBefore]
    rw [hcount, hcur, hidx, leadReadActs, if_pos hal]
    exact (Meets.ret (.ok ()) fun _ => id).congr fun s _ h => by simp [leadingWord, h.cur, hal]
  · have hcount : leadCount address = 1 := if_neg hal
    rw [hcount] at hquiet ⊢
    rw [spanActs_quiet_succ 0 0 hquiet]
    simp only [spanActs, List.append_nil]
    exact meets_leadingWord hm hal lead (meets_afterWord_quiet hquiet (by omega))

theorem leadCount_spec (address : Word) :
    (address.setWidth 2).toNat ≤ 4 * leadCount address ∧ leadCount address ≤ 1
      ∧ (leadCount address = 1 → address.setWidth 2 ≠ 0#2) := by
  have := (address.setWidth 2).isLt
  unfold leadCount
  split
  next h => simp [h]
  next h => exact ⟨by omega, Nat.le_refl 1, fun _ => h⟩

/-- All the words of a span (R245). -/
def allWords (length : Word) (s : State) : Res Unit := tryThen (leadingWord length s) fun _ => restWords length

/-- The words of a span in which no wait is due. -/
theorem meets_allWords_quiet (hm : 1 ≤ cfg.engine.maxAttempts) (lead : Word × Word)
    (hquiet : spanWords address length < cfg.flash.writePollIntervalWords) :
    Meets cfg (WriterAt m address 0 0 0)
      (leadReadActs cfg address lead ++ (spanActs cfg address length lead.2 m ps (spanWords address length) 0 0 0).1)
      (allWords length) (.ok ())
      (fun s => ∃ cur idx reported, WriterAt m cur idx (spanWords address length) reported s) := by
  obtain ⟨hlane, hone, -⟩ := leadCount_spec address
  rw [spanWords_eq] at hquiet ⊢
  rw [spanActs_quiet_add _ _ _ (by omega), ← List.append_assoc]
  simp only [Nat.zero_add]
  exact (meets_leadingWord_quiet hm lead (by omega)).tryThen (meets_restWords_quiet hm hlane hquiet hone)

/-- The words of a span up to the first wait, which times out (R245, R304). -/
theorem meets_allWords_never (hm : 1 ≤ cfg.engine.maxAttempts) (hinterval : 1 ≤ cfg.flash.writePollIntervalWords)
    (hnever : Runs cfg as (waitControllerReady cfg.flash.writeWordTimeoutMs) (.error .eTimeout)) (lead : Word × Word)
    (hdue : cfg.flash.writePollIntervalWords ≤ spanWords address length) :
    Meets cfg (WriterAt m address 0 0 0)
      (leadReadActs cfg address lead
        ++ ((spanActs cfg address length lead.2 m ps (cfg.flash.writePollIntervalWords - 1) 0 0 0).1
          ++ (memWriteActs cfg (spanAddr address (cfg.flash.writePollIntervalWords - 1))
              (spanWord address length lead.2 m (cfg.flash.writePollIntervalWords - 1)) ++ as)))
      (allWords length) (.error .eTimeout) (fun _ => True) := by
  obtain ⟨hlane, hone, hpartial⟩ := leadCount_spec address
  rw [spanWords_eq] at hdue
  by_cases hlead : cfg.flash.writePollIntervalWords = leadCount address
  · -- the wait stands behind the leading word
    have hlast : cfg.flash.writePollIntervalWords - 1 = 0 := by omega
    rw [hlast]
    exact (meets_leadingWord hm (hpartial (by omega)) lead
      (meets_afterWord_never hnever (by omega) (by omega))).tryThen_error
  · obtain ⟨q, hq⟩ : ∃ q, cfg.flash.writePollIntervalWords - 1 = leadCount address + q :=
      ⟨cfg.flash.writePollIntervalWords - 1 - leadCount address, by omega⟩
    have hrest := fun reported => meets_restWords_never (m := m) (lead := lead.2) (ps := ps) (reported := reported) hm
      hnever hlane (by omega : leadCount address + q + 1 = cfg.flash.writePollIntervalWords) (length := length) (by omega)
      hone
    have hall := (meets_leadingWord_quiet (ps := ps) hm lead (by omega)).tryThen (hrest _)
    rw [hq, spanActs_quiet_add _ _ _ (by omega)]
    simp only [Nat.zero_add, List.append_assoc] at hall ⊢
    exact hall

/-- The body of a buffered write as the mode, the words and the closing. -/
theorem writeBufferBody_eq (address length : Word) (s : State) :
    writeBufferBody address length s = tryThen (setControllerMode .write s) fun _ s1 =>
      tryThen (allWords length
        (s1.mapSeqRegs fun r => { r with cur := address, idx := 0#32, sincePoll := 0#32, reported := 0#32 }))
        fun _ => closeTail length := by
  simp only [writeBufferBody, allWords, restWords, tryThen_assoc]

/-- A body whose words and closing are known, behind a mode switch that takes (R245). -/
theorem meets_writeBufferBody (hvalid : validConfig cfg = true) (hn : NvmcAligned cfg) {into : Word × Word}
    (hinto : ShowsMode cfg .write into)
    (h : Meets cfg (WriterAt m address 0 0 0) as (fun s => tryThen (allWords length s) fun _ => closeTail length) v Q) :
    Meets cfg (HoldsBuffer m) (modeActs cfg .write into ++ as) (writeBufferBody address length) v Q := by
  have hstart : ∀ s : State, HoldsBuffer m s → WriterAt m address 0 0 0
      (s.mapSeqRegs fun r => { r with cur := address, idx := 0#32, sincePoll := 0#32, reported := 0#32 }) :=
    fun s h => ⟨h, rfl, rfl, rfl, rfl⟩
  have hwords := h.after (shows_mapSeqRegs _) hstart
  exact ((hinto.runs hvalid hn).tryThen_meets (P := HoldsBuffer m) (k := fun _ s1 => Machine.tryThen
      (allWords length
        (s1.mapSeqRegs fun r => { r with cur := address, idx := 0#32, sincePoll := 0#32, reported := 0#32 }))
      fun _ => closeTail length)
    (fun s hs => (ran_setControllerMode .write s).wired.buffer.trans hs) hwords).congr
      fun s _ _ => writeBufferBody_eq address length s

/-- The body of a buffered write whose first wait times out (R245, R304). -/
theorem meets_writeBufferBody_never (hvalid : validConfig cfg = true) (hn : NvmcAligned cfg) (hlen : length ≠ 0#32)
    {k : WriteTalk} (hinto : ShowsMode cfg .write k.into)
    (hnever : NeverSettles cfg cfg.flash.writeWordTimeoutMs ps) :
    Meets cfg (HoldsBuffer m) (firstWaitActs cfg address length m k ps) (writeBufferBody address length)
      (.error .eTimeout) (fun _ => True) := by
  have hm := maxAttempts_pos hvalid
  obtain ⟨-, -, -, -, -, -, -, hinterval, -⟩ := (validConfig_iff cfg).1 hvalid
  have hwait := hnever.runs hvalid hn
  have hlead : leadActs cfg address k = modeActs cfg .write k.into ++ leadReadActs cfg address k.lead := rfl
  unfold firstWaitActs
  by_cases hfew : spanWords address length < cfg.flash.writePollIntervalWords
  · -- the wait is the closing one
    have hsome : spanWords address length ≠ 0 := by
      have : length.toNat ≠ 0 := fun h => hlen (BitVec.eq_of_toNat_eq (by simpa using h))
      unfold spanWords
      omega
    have hclosing : Meets cfg (fun s => ∃ cur idx reported, WriterAt m cur idx (spanWords address length) reported s)
        (readyPolls cfg ps)
        (fun s => if s.seqRegs.sincePoll = 0#32 then ((.ok (), s) : Res Unit)
          else waitControllerReady s.cfg.flash.writeWordTimeoutMs s)
        (.error .eTimeout) (fun _ => True) := by
      refine (hwait.meets_true.mono (fun _ _ => trivial) fun _ => id).congr fun s hc h => ?_
      obtain ⟨cur, idx, reported, hs⟩ := h
      have hcounted : s.seqRegs.sincePoll ≠ 0#32 := fun h0 => hsome (by rw [← hs.since, h0]; rfl)
      rw [if_neg hcounted, hc]
    have hclose : Meets cfg _ (readyPolls cfg ps) (closeTail length) (.error .eTimeout) (fun _ => True) :=
      hclosing.tryThen_error
    simp only [hfew, if_true, hlead, List.append_assoc]
    rw [← List.append_assoc (leadReadActs cfg address k.lead)]
    exact meets_writeBufferBody hvalid hn hinto ((meets_allWords_quiet hm k.lead hfew).tryThen hclose)
  · simp only [hfew, if_false, hlead, List.append_assoc]
    exact meets_writeBufferBody hvalid hn hinto
      (meets_allWords_never hm hinterval hwait k.lead (by omega)).tryThen_error

end Writer

end Sys2Proof.Machine

/-! ## Time-outs and the exit paths (R240, R242, R304, R316) -/

namespace Sys2Proof.Machine

/-! ### Every exit path ends with the restoring switch (R242) -/

/-- What `finish` leaves is what the restoring switch leaves, and it reports Ok only if the switch does. -/
theorem restoredFrom_finish (r : Res Unit) : RestoredFrom r.2 (respondUnit (finish r)) := by
  refine ⟨respondUnit (setControllerMode .readOnly r.2), rfl, ?_⟩
  obtain ⟨c | a, u⟩ := r
  · refine ⟨by simp [respondUnit, finish], by simp [respondUnit, finish], by simp [respondUnit, finish],
      by simp [respondUnit, finish], fun hok => ?_⟩
    have hcode : c.toByte = statusOk := hok
    exact absurd hcode (by cases c <;> decide)
  · exact ⟨rfl, rfl, rfl, rfl, id⟩

theorem Worked.continues {s t : State} (h : Worked s t) : Continues s t := by
  obtain ⟨n, hn⟩ := h.host
  rw [Continues, hn]
  exact ⟨h.cfg, rfl, rfl, rfl, rfl, h.trace⟩

/-! ### Bodies that end early -/

section Early

variable {cfg : Params}

/-- A first wait of an erase that times out (R240). -/
theorem runs_restoring_erase_never (hvalid : validConfig cfg = true) (hn : NvmcAligned cfg) {ps : List Poll}
    (h : NeverSettles cfg cfg.flash.readyTimeoutMs ps) :
    (∀ address, Meets cfg (fun _ => True) (readyPolls cfg ps) (restoringBody (.erasePage address)) (.error .eTimeout)
        fun _ => True)
      ∧ Meets cfg (fun _ => True) (readyPolls cfg ps) (restoringBody .eraseAll) (.error .eTimeout) fun _ => True := by
  refine ⟨fun address => ?_, ?_⟩
  · refine Runs.erasePage_restoring ?_
    rw [erasePageBody_eq]
    exact runs_eraseStart_never hvalid hn h
  · rw [restoringBody_eraseAll, eraseAllBody_eq]
    exact (runs_eraseStart_never hvalid hn h).meets_true

/-- A switch to Erase that does not take (R241). -/
theorem runs_restoring_erase_refused (hvalid : validConfig cfg = true) (hn : NvmcAligned cfg) {before : List Poll}
    {into : Word × Word} (hbefore : Settles cfg cfg.flash.readyTimeoutMs before) (hinto : ¬ ShowsMode cfg .erase into) :
    (∀ address, Meets cfg (fun _ => True) (readyPolls cfg before ++ modeActs cfg .erase into)
        (restoringBody (.erasePage address)) (.error .eMode) fun _ => True)
      ∧ Meets cfg (fun _ => True) (readyPolls cfg before ++ modeActs cfg .erase into) (restoringBody .eraseAll)
        (.error .eMode) fun _ => True := by
  have hmode := runs_modeRefused hvalid hn hinto
  refine ⟨fun address => ?_, ?_⟩
  · refine Runs.erasePage_restoring ?_
    rw [erasePageBody_eq]
    exact runs_eraseStart hvalid hn hbefore hmode.tryThen_error
  · rw [restoringBody_eraseAll, eraseAllBody_eq]
    exact (runs_eraseStart hvalid hn hbefore hmode.tryThen_error).meets_true

/-- A second wait of a page erase that times out (R240). -/
theorem runs_restoring_erasePage_never (hvalid : validConfig cfg = true) (hn : NvmcAligned cfg) {before ps : List Poll}
    {into : Word × Word} (hbefore : Settles cfg cfg.flash.readyTimeoutMs before) (hinto : ShowsMode cfg .erase into)
    (h : NeverSettles cfg cfg.flash.erasePageTimeoutMs ps) (address : Word) :
    Meets cfg (fun _ => True)
      (readyPolls cfg before ++ modeActs cfg .erase into
        ++ memWriteActs cfg cfg.flash.nvmcErasePage (alignDown address cfg.flash.pageSize) ++ [.pause .eraseSettle]
        ++ readyPolls cfg ps)
      (restoringBody (.erasePage address)) (.error .eTimeout) fun _ => True := by
  refine Runs.erasePage_restoring ?_
  rw [erasePageBody_eq]
  simp only [List.append_assoc]
  exact runs_erase hvalid hn hbefore hinto (runs_pageTrigger_never hvalid hn h)

/-- A second wait of erase-all that times out (R240). -/
theorem runs_restoring_eraseAll_never (hvalid : validConfig cfg = true) (hn : NvmcAligned cfg) {before ps : List Poll}
    {into : Word × Word} (hbefore : Settles cfg cfg.flash.readyTimeoutMs before) (hinto : ShowsMode cfg .erase into)
    (h : NeverSettles cfg cfg.flash.eraseAllTimeoutMs ps) :
    Meets cfg (fun _ => True)
      (readyPolls cfg before ++ modeActs cfg .erase into ++ memWriteActs cfg cfg.flash.nvmcEraseAll 1#32
        ++ [.pause .eraseAllSettle] ++ readyPolls cfg ps)
      (restoringBody .eraseAll) (.error .eTimeout) fun _ => True := by
  rw [restoringBody_eraseAll, eraseAllBody_eq]
  simp only [List.append_assoc]
  exact (runs_erase hvalid hn hbefore hinto (runs_chipTrigger hvalid hn (h.runs hvalid hn))).meets_true

end Early

/-! ### The statements -/

/-- Settles O40: each wait that times out ends its body, and the restoring switch does not change the code. -/
theorem timeoutStillRestoresMode : Obligations.TimeoutStillRestoresMode := by
  intro s ps back rest hp hvalid hn timesOut
  obtain ⟨w, hback⟩ := exists_runs_mode hvalid hn .readOnly back
  have ends : ∀ {i : Instr} {acts : List Act} {P : State → Prop}, P s →
      Meets s.cfg P acts (restoringBody i) (.error .eTimeout) (fun _ => True) → timesOut i acts :=
    fun hP h hchecks ha => h.restores hback hchecks hp hP ha
  refine ⟨fun hnever => ?_, fun before into hbefore hinto => ⟨fun hnever address => ?_, fun hnever => ?_⟩,
    fun hnever => ⟨fun address data into hinto hchecks ha => ?_, fun address length k hinto hchecks => ?_⟩⟩
  · obtain ⟨hpage, hchip⟩ := runs_restoring_erase_never hvalid hn hnever
    exact ⟨fun address => ends trivial (hpage address), ends trivial hchip⟩
  · exact ends trivial (runs_restoring_erasePage_never hvalid hn hbefore hinto hnever address)
  · exact ends trivial (runs_restoring_eraseAll_never hvalid hn hbefore hinto hnever)
  · have hbody := runs_flashWriteWordBody hvalid hn (data := data) hchecks hinto (hnever.runs hvalid hn)
    rw [← List.append_assoc] at hbody
    exact ends (i := .flashWriteWord address data) trivial hbody.meets_true hchecks ha
  · obtain ⟨hlen, -⟩ := id hchecks
    exact ends (i := .writeBuffer address length) (P := HoldsBuffer s.inputs.buffer) rfl
      (meets_writeBufferBody_never hvalid hn hlen hinto hnever) hchecks

/-- Settles O60: every such operation is its body and `finish`; a refused switch ends the body, a refused restore replaces its
success. -/
theorem modeIsRestoredOnEveryExitPath : Obligations.ModeIsRestoredOnEveryExitPath := by
  refine ⟨fun i s hp hchecks => ?_, ?_⟩
  · have hw := worked_restoringBody i s
    exact ⟨_, _, exec_restoring hchecks, restoredFrom_finish (restoringBody i s), hw.parked hp, hw.continues⟩
  intro s back rest hp hvalid hn fails
  have hm := maxAttempts_pos hvalid
  have refused : ∀ {i : Instr} {acts : List Act},
      Meets s.cfg (fun _ => True) acts (restoringBody i) (.error .eMode) (fun _ => True) →
        fails i (acts ++ modeActs s.cfg .readOnly back) := by
    intro i acts h hchecks ha
    obtain ⟨w, hback⟩ := exists_runs_mode hvalid hn .readOnly back
    exact h.restores hback hchecks hp trivial ha
  refine ⟨fun into hinto => ?_, fun before into hbefore hinto => ?_, fun hback => ?_⟩
  · have hmode := runs_modeRefused hvalid hn hinto
    refine ⟨fun address data => ?_, fun address length => ?_⟩
    · exact refused (hmode.tryThen_error.meets_true (f := restoringBody (.flashWriteWord address data)))
    · exact refused (hmode.tryThen_error.meets_true (f := restoringBody (.writeBuffer address length)))
  · obtain ⟨hpage, hchip⟩ := runs_restoring_erase_refused hvalid hn hbefore hinto
    exact ⟨fun address => refused (hpage address), refused hchip⟩
  have unrestored : ∀ {i : Instr} {acts : List Act} {P : State → Prop}, P s →
      Meets s.cfg P acts (restoringBody i) (.ok ()) (fun _ => True) →
        fails i (acts ++ modeActs s.cfg .readOnly back) :=
    fun hP h hchecks ha => h.restores (runs_modeRefused hvalid hn hback) hchecks hp hP ha
  refine ⟨fun address k hk hkback => ?_, fun before after into hbefore hinto hafter => ?_,
    fun address data into ps hinto hps hchecks ha => ?_, fun address length k hk hkback => ?_⟩
  · subst hkback
    exact unrestored trivial (hk.runs hvalid hn address).erasePage_restoring
  · exact unrestored trivial
      ((runs_eraseAllBody hvalid hn hbefore hinto hafter).meets_true (f := restoringBody .eraseAll))
  · have hbody := runs_flashWriteWordBody hvalid hn (data := data) hchecks hinto (hps.runs hvalid hn)
    rw [← List.append_assoc] at hbody
    exact unrestored (i := .flashWriteWord address data) trivial hbody.meets_true hchecks ha
  · subst hkback
    obtain ⟨hinto, hready⟩ := hk
    obtain ⟨-, hnconfig, -⟩ := id hn
    exact unrestored (i := .writeBuffer address length) (P := HoldsBuffer s.inputs.buffer) rfl
      (plays_writeBufferBody hm hnconfig (hready.runs hvalid hn) hinto).meets

end Sys2Proof.Machine

/-! ## The firmware update (R247) -/

namespace Sys2Proof.Machine

section Buffer

variable {cfg : Params} {P Q : State → Prop} {as : List Act} {f : State → Res Unit} {v : Except ErrCode Unit} {m : Memory}

theorem Played.buffer {rest : List (Option Bool)} {s t : State} (h : Played as rest s t) :
    t.inputs.buffer = s.inputs.buffer := by
  obtain ⟨-, hin, -⟩ := h
  rw [hin]

/-- A script leaves the host's buffer as it was (R64). -/
theorem Meets.holdsBuffer (h : Meets cfg P as f v Q) (hP : ∀ s, HoldsBuffer m s → P s) :
    Meets cfg (HoldsBuffer m) as f v (HoldsBuffer m) := by
  intro s rest hc hp hs ha
  obtain ⟨t, heq, ht, -⟩ := h s rest hc hp (hP s hs) ha
  exact ⟨t, heq, ht, ht.buffer.trans hs⟩

end Buffer

/-! ### The pages -/

/-- The first address of page `x` of the address space. -/
def pageAt (cfg : Params) (x : Nat) : Word := BitVec.ofNat 32 (x * cfg.flash.pageSize)

section Pages

variable {cfg : Params} {start length : Word}

theorem alignDown_pageSize (hvalid : validConfig cfg = true) (a : Word) :
    alignDown a cfg.flash.pageSize = pageAt cfg (a.toNat / cfg.flash.pageSize) := by
  obtain ⟨k, hk, -⟩ := pageSize_eq hvalid
  rw [pageAt, hk, alignDown_two_pow]

theorem pageSize_pos (hvalid : validConfig cfg = true) : 0 < cfg.flash.pageSize := by
  obtain ⟨k, hk, -⟩ := pageSize_eq hvalid
  rw [hk]
  exact Nat.two_pow_pos k

theorem toNat_pageAt {x : Nat} (h : x * cfg.flash.pageSize < 2 ^ 32) : (pageAt cfg x).toNat = x * cfg.flash.pageSize := by
  rw [pageAt, BitVec.toNat_ofNat, Nat.mod_eq_of_lt h]

theorem pageAt_succ (cfg : Params) (x : Nat) : pageAt cfg (x + 1) = pageAt cfg x + BitVec.ofNat 32 cfg.flash.pageSize := by
  rw [pageAt, Nat.succ_mul, BitVec.ofNat_add, pageAt]

/-- A page erase that is answered well to its end (R243). -/
theorem EraseTalk.good.meets (hvalid : validConfig cfg = true) (hn : NvmcAligned cfg) {k : EraseTalk} (hk : k.good cfg)
    {address : Word} (hin : inFlash cfg address = true) :
    Meets cfg (fun _ => True) (eraseActs cfg (alignDown address cfg.flash.pageSize) k) (erasePage address) (.ok ())
      (fun _ => True) := by
  obtain ⟨herases, hback⟩ := hk
  exact ((herases.runs hvalid hn address).meets_true.finish (hback.runs hvalid hn)).congr fun s hc _ => by
    rw [erasePage, hc, if_pos hin]

/-- Page `x` lies in the flash (R7). -/
def PageInFlash (cfg : Params) (x : Nat) : Prop :=
  cfg.flash.flashBase ≤ x * cfg.flash.pageSize
    ∧ x * cfg.flash.pageSize < cfg.flash.flashBase + cfg.flash.flashSize

theorem PageInFlash.toNat_pageAt (hvalid : validConfig cfg = true) {x : Nat} (h : PageInFlash cfg x) :
    (pageAt cfg x).toNat = x * cfg.flash.pageSize := by
  obtain ⟨-, -, -, -, -, -, -, -, -, -, -, -, -, -, -, htop, -⟩ := (validConfig_iff cfg).1 hvalid
  obtain ⟨-, hend⟩ := h
  exact Machine.toNat_pageAt (by omega)

theorem PageInFlash.inFlash (hvalid : validConfig cfg = true) {x : Nat} (h : PageInFlash cfg x) :
    inFlash cfg (pageAt cfg x) = true :=
  (inFlash_iff cfg _).2 (by rwa [h.toNat_pageAt hvalid])

theorem PageInFlash.alignDown (hvalid : validConfig cfg = true) {x : Nat} (h : PageInFlash cfg x) :
    alignDown (pageAt cfg x) cfg.flash.pageSize = pageAt cfg x := by
  rw [alignDown_pageSize hvalid, h.toNat_pageAt hvalid, Nat.mul_div_cancel _ (pageSize_pos hvalid)]

/-- What follows the erase of a page: its report, then the pages behind it (R247). -/
theorem Meets.erasePages_cons {total n j x : Nat} {v : Except ErrCode Unit} {page bs : List Act}
    (hpage : Meets cfg (fun _ => True) page (erasePage (pageAt cfg x)) (.ok ()) (fun _ => True))
    (hrest : Meets cfg (fun _ => True) bs (erasePages total n (j + 1) (pageAt cfg (x + 1))) v (fun _ => True)) :
    Meets cfg (fun _ => True)
      (page ++ .report (BitVec.ofNat 32 ((j + 1) * cfg.flash.pageSize)) (BitVec.ofNat 32 (total * cfg.flash.pageSize)) .erase
        :: bs)
      (erasePages total (n + 1) j (pageAt cfg x)) v (fun _ => True) := by
  have hreported := hrest.after (P := fun _ => True) (shows_progress (BitVec.ofNat 32 ((j + 1) * cfg.flash.pageSize))
    (BitVec.ofNat 32 (total * cfg.flash.pageSize)) .erase) fun _ => id
  have hstep : Meets cfg (fun _ => True) _ (fun s => erasePages total n (j + 1)
      (pageAt cfg x + BitVec.ofNat 32 s.cfg.flash.pageSize)
      (progress (BitVec.ofNat 32 ((j + 1) * s.cfg.flash.pageSize)) (BitVec.ofNat 32 (total * s.cfg.flash.pageSize)) .erase s))
      v (fun _ => True) := hreported.congr fun s hc _ => by rw [hc, ← pageAt_succ]
  have hstarted := (hpage.tryThen hstep).after (P := fun _ => True)
    (shows_mapSeqRegs fun r => { r with cur := pageAt cfg x }) fun _ => id
  exact hstarted.congr fun _ _ _ => rfl

/-- The page loop over pages that lie in the flash. -/
theorem meets_erasePages (hvalid : validConfig cfg = true) (hn : NvmcAligned cfg) (total : Nat) (ks : List EraseTalk)
    (hks : ∀ k ∈ ks, k.good cfg) (j : Nat)
    (hpages : ∀ i < ks.length, PageInFlash cfg (start.toNat / cfg.flash.pageSize + j + i)) :
    Meets cfg (fun _ => True) (pagesActs cfg start total j ks)
      (erasePages total ks.length j (pageAt cfg (start.toNat / cfg.flash.pageSize + j))) (.ok ()) (fun _ => True) := by
  induction ks generalizing j with
  | nil => exact Meets.ret _ fun _ => id
  | cons k ks ih =>
    obtain ⟨hk, hks⟩ := List.forall_mem_cons.1 hks
    have hfirst : PageInFlash cfg (start.toNat / cfg.flash.pageSize + j) := hpages 0 (by simp)
    have hrest := ih hks (j + 1) fun i hi => by
      have h := hpages (i + 1) (by simpa using hi)
      rwa [← Nat.add_assoc, Nat.add_right_comm] at h
    have hpage := hk.meets hvalid hn (hfirst.inFlash hvalid)
    rw [hfirst.alignDown hvalid] at hpage
    exact hpage.erasePages_cons hrest

/-- The pages a span inside the flash touches lie in the flash (R340). -/
theorem pageInFlash_of_span (hvalid : validConfig cfg = true) (hlen : length ≠ 0#32)
    (hbase : cfg.flash.flashBase ≤ start.toNat)
    (hfit : start.toNat - cfg.flash.flashBase + length.toNat ≤ cfg.flash.flashSize) {i : Nat}
    (hi : i < pageCount cfg start length) : PageInFlash cfg (start.toNat / cfg.flash.pageSize + i) := by
  obtain ⟨-, -, -, -, -, -, -, -, -, -, -, -, -, ⟨p, hp⟩, -⟩ := (validConfig_iff cfg).1 hvalid
  have hpos := pageSize_pos hvalid
  have hsome : length.toNat ≠ 0 := fun h => hlen (BitVec.eq_of_toNat_eq (by simpa using h))
  have hfirst : p ≤ start.toNat / cfg.flash.pageSize := by
    rw [Nat.le_div_iff_mul_le hpos, Nat.mul_comm]
    omega
  have hmono : start.toNat / cfg.flash.pageSize ≤ (start.toNat + length.toNat - 1) / cfg.flash.pageSize :=
    Nat.div_le_div_right (by omega)
  have hlast : start.toNat / cfg.flash.pageSize + i ≤ (start.toNat + length.toNat - 1) / cfg.flash.pageSize := by
    simp only [pageCount] at hi
    omega
  rw [Nat.le_div_iff_mul_le hpos] at hlast
  refine ⟨?_, by omega⟩
  rw [hp, Nat.mul_comm]
  exact Nat.mul_le_mul_right _ (by omega)

/-- The update's number of pages, from the addresses of its first and last page (R247). -/
theorem pageCount_eq (hvalid : validConfig cfg = true)
    (hfit : start.toNat + length.toNat ≤ 2 ^ 32) :
    ((alignDown (BitVec.ofNat 32 (start.toNat + length.toNat - 1)) cfg.flash.pageSize).toNat
        - (alignDown start cfg.flash.pageSize).toNat) / cfg.flash.pageSize + 1
      = pageCount cfg start length := by
  have hpos := pageSize_pos hvalid
  have hlastByte : (BitVec.ofNat 32 (start.toNat + length.toNat - 1)).toNat = start.toNat + length.toNat - 1 := by
    rw [BitVec.toNat_ofNat, Nat.mod_eq_of_lt (by have := start.isLt; omega)]
  have hpage : ∀ a : Word, (pageAt cfg (a.toNat / cfg.flash.pageSize)).toNat
      = a.toNat / cfg.flash.pageSize * cfg.flash.pageSize := fun a =>
    toNat_pageAt (Nat.lt_of_le_of_lt (Nat.div_mul_le_self _ _) a.isLt)
  rw [alignDown_pageSize hvalid, alignDown_pageSize hvalid, hpage, hpage, hlastByte, ← Nat.sub_mul,
    Nat.mul_div_cancel _ hpos]
  rfl

end Pages

/-! ### The words read back -/

/-- Where the verify loop stands: the host's buffer and the bytes done at the last report. -/
structure VerifierAt (m : Memory) (reported : Nat) (s : State) : Prop where
  buffer : s.inputs.buffer = m
  reported : s.seqRegs.reported.toNat = reported

theorem VerifierAt.wired {m : Memory} {reported : Nat} {s t : State} (h : Wired s t) (hs : VerifierAt m reported s) :
    VerifierAt m reported t :=
  ⟨h.buffer.trans hs.buffer, by rw [h.seqRegs]; exact hs.reported⟩

theorem VerifierAt.progress {m : Memory} {reported : Nat} {s : State} (h : VerifierAt m reported s) (d t : Word)
    (l : ProgLabel) : VerifierAt m reported (progress d t l s) := by
  unfold Machine.progress
  split <;> exact ⟨h.buffer, h.reported⟩

theorem VerifierAt.loaded {m : Memory} {reported taken : Nat} {s t : State} (h : VerifierAt m reported s)
    (hl : Loaded taken s t) : VerifierAt m reported t :=
  ⟨hl.buffer.trans h.buffer, by rw [hl.regs]; exact h.reported⟩

section Lanes

variable {start length w : Word}

theorem compareLanes_loaded (cur n k : Nat) (s : State) : Loaded 0 s (compareLanes start length w cur n k s).2 := by
  induction n generalizing k s with
  | zero => exact Loaded.refl s
  | succ n ih =>
    have hread : Loaded 0 s (readBuf (cur + k - start.toNat) s).2 := ⟨rfl, by simp [readBuf_eq]⟩
    simp only [compareLanes]
    split
    · split
      · exact hread.trans (ih _ _)
      · exact hread
    · exact ih _ _

/-- The byte at `cur + k` agrees with the buffer if it lies inside the span (R247). -/
def LaneAgrees (start length w : Word) (m : Memory) (cur k : Nat) : Prop :=
  start.toNat ≤ cur + k ∧ cur + k < start.toNat + length.toNat →
    byteLane w k = m.read (BitVec.ofNat 32 (cur + k - start.toNat))

theorem compareLanes_iff (cur n k : Nat) (s : State) :
    (compareLanes start length w cur n k s).1 = true
      ↔ ∀ i < n, LaneAgrees start length w s.inputs.buffer cur (k + i) := by
  induction n generalizing k s with
  | zero => simp [compareLanes]
  | succ n ih =>
    have hrest : ∀ t : State, t.inputs.buffer = s.inputs.buffer →
        ((compareLanes start length w cur n (k + 1) t).1 = true
          ↔ ∀ i < n, LaneAgrees start length w s.inputs.buffer cur (k + (i + 1))) := fun t ht => by
      rw [ih, ht]
      simp only [Nat.add_assoc, Nat.add_comm 1]
    rw [Nat.forall_lt_succ_left, compareLanes]
    dsimp only [Nat.add_zero]
    by_cases hin : start.toNat ≤ cur + k ∧ cur + k < start.toNat + length.toNat
    · have hlane : LaneAgrees start length w s.inputs.buffer cur k
          ↔ byteLane w k = (readBuf (cur + k - start.toNat) s).1 := by
        simp only [LaneAgrees, hin, and_self, true_implies]
        rfl
      rw [if_pos hin, hlane]
      split
      next heq =>
        simp only [heq, true_and]
        exact hrest _ rfl
      next hne => simp only [hne, false_and, Bool.false_eq_true]
    · have hlane : LaneAgrees start length w s.inputs.buffer cur k := fun h => absurd h hin
      simp only [hin, if_false, hlane, true_and, hrest s rfl]

/-- The word that holds an address stands as many bytes below it as the address's lane (R10). -/
theorem toNat_alignDown_four (a : Word) :
    (alignDown a 4).toNat + (a.setWidth 2).toNat = a.toNat ∧ (a.setWidth 2).toNat < 4 := by
  have halign := alignDown_two_pow a 2
  have ha := a.isLt
  rw [show 2 ^ 2 = 4 from rfl] at halign
  rw [halign, BitVec.toNat_setWidth, BitVec.toNat_ofNat]
  omega

/-- The whole word read at the span's j-th place is compared as the rule says (R247). -/
theorem compareLanes_word (m : Memory) (j : Nat) (s : State) (hs : s.inputs.buffer = m) :
    (compareLanes start length w ((alignDown start 4).toNat + 4 * j) 4 0 s).1 = true
      ↔ VerifyAgrees start length m j w := by
  obtain ⟨hfirst, hlane⟩ := toNat_alignDown_four start
  rw [compareLanes_iff, VerifyAgrees, hs]
  refine forall₂_congr fun k hk => ?_
  rw [LaneAgrees, Nat.zero_add, and_imp]
  have hplace : (alignDown start 4).toNat + 4 * j + k - start.toNat = 4 * j + k - (start.setWidth 2).toNat := by omega
  rw [hplace]
  exact imp_congr (by omega) (imp_congr (by omega) Iff.rfl)

end Lanes

/-- The state behind a word that agrees: `CUR` and, where one is due, the report (R247). -/
def verifyMoved (start length : Word) (cur : Nat) (s : State) : State :=
  let done := min (cur + 4) (start.toNat + length.toNat) - start.toNat
  let moved := s.mapSeqRegs fun r => { r with cur := BitVec.ofNat 32 (cur + 4) }
  if moved.cfg.flash.progressIntervalBytes ≤ done - moved.seqRegs.reported.toNat ∨ done = length.toNat then
    progress (BitVec.ofNat 32 done) length .verify
      (moved.mapSeqRegs fun r => { r with reported := BitVec.ofNat 32 done })
  else moved

/-- What the verify loop does with the word `w` read at `cur`, `n` words behind it (R247). -/
def verifyRead (start length : Word) (n cur : Nat) (w : Word) (s : State) : Res Unit :=
  let c := compareLanes start length w cur 4 0 s
  if c.1 then verifyWords start length n (cur + 4) (verifyMoved start length cur c.2) else (.error .eWriteVerify, c.2)

theorem verifyWords_succ (start length : Word) (n cur : Nat) (s : State) :
    verifyWords start length (n + 1) cur s
      = tryThen (memReadWord (BitVec.ofNat 32 cur) s) (verifyRead start length n cur) := rfl

section Verify

variable {cfg : Params} {start length : Word} {m : Memory} {reported : Nat} {bs : List Act} {f : State → Res Unit}
  {v : Except ErrCode Unit}

/-- The number the verify loop counts with, of the span's `j`-th word. -/
theorem ofNat_spanAddr (start : Word) (j : Nat) :
    BitVec.ofNat 32 ((alignDown start 4).toNat + 4 * j) = spanAddr start j := by
  rw [BitVec.ofNat_add, BitVec.ofNat_toNat, BitVec.setWidth_eq, spanAddr]

/-- The number of words the verify loop reads (R247). -/
theorem verifySpan_words (start length : Word) :
    (start.toNat + length.toNat - (alignDown start 4).toNat + 3) / 4 = spanWords start length := by
  obtain ⟨hfirst, -⟩ := toNat_alignDown_four start
  rw [spanWords]
  congr 1
  omega

/-- The bytes verified behind the span's `j`-th word (R247). -/
theorem verifyDone_eq (start length : Word) (j : Nat) :
    min ((alignDown start 4).toNat + 4 * j + 4) (start.toNat + length.toNat) - start.toNat = spanDone start length j := by
  obtain ⟨hfirst, hlane⟩ := toNat_alignDown_four start
  rw [spanDone]
  omega

/-- The report behind a word, where one is due, and what follows it (R247). -/
theorem Meets.verifyMoved {j : Nat} (due : Bool)
    (hdue : due = (decide (cfg.flash.progressIntervalBytes ≤ spanDone start length j - reported)
      || spanDone start length j == length.toNat))
    (h : Meets cfg (VerifierAt m (if due then spanDone start length j else reported)) bs f v (fun _ => True)) :
    Meets cfg (VerifierAt m reported)
      ((if due then [.report (BitVec.ofNat 32 (spanDone start length j)) length .verify] else []) ++ bs)
      (fun s => f (verifyMoved start length ((alignDown start 4).toNat + 4 * j) s)) v (fun _ => True) := by
  have hiff : due = true ↔ cfg.flash.progressIntervalBytes ≤ spanDone start length j - reported
      ∨ spanDone start length j = length.toNat := by simp [hdue]
  have hmoved := shows_mapSeqRegs fun r =>
    { r with cur := BitVec.ofNat 32 ((alignDown start 4).toNat + 4 * j + 4) }
  cases due with
  | false =>
    refine (h.after (P := VerifierAt m reported) hmoved fun s hs => ⟨hs.buffer, hs.reported⟩).congr fun s hc hs => ?_
    simp only [Machine.verifyMoved, verifyDone_eq]
    rw [if_neg]
    simpa [hc, hs.reported] using hiff
  | true =>
    have hfit : spanDone start length j < 2 ^ 32 := Nat.lt_of_le_of_lt (Nat.min_le_right _ _) length.isLt
    have hshown := (hmoved.comp (shows_mapSeqRegs fun r =>
      { r with reported := BitVec.ofNat 32 (spanDone start length j) })).comp
        (shows_progress (BitVec.ofNat 32 (spanDone start length j)) length .verify)
    refine (h.after (P := VerifierAt m reported) hshown fun s hs => ?_).congr fun s hc hs => ?_
    · have hset : VerifierAt m (spanDone start length j)
          ((s.mapSeqRegs fun r => { r with cur := BitVec.ofNat 32 ((alignDown start 4).toNat + 4 * j + 4) }).mapSeqRegs
            fun r => { r with reported := BitVec.ofNat 32 (spanDone start length j) }) :=
        ⟨hs.buffer, Nat.mod_eq_of_lt hfit⟩
      exact hset.progress _ _ _
    · simp only [Machine.verifyMoved, verifyDone_eq]
      rw [if_pos]
      simpa [hc, hs.reported] using hiff

/-- A word read back, and what its comparison with the buffer leads to (R247). -/
theorem Meets.verifyWords_read (hm : 1 ≤ cfg.engine.maxAttempts) {j n : Nat} {p : Word × Word}
    (h : Meets cfg (VerifierAt m reported) bs (verifyRead start length n ((alignDown start 4).toNat + 4 * j) p.2) v
      (fun _ => True)) :
    Meets cfg (VerifierAt m reported) (memReadActs cfg (spanAddr start j) p.1 p.2 ++ bs)
      (verifyWords start length (n + 1) ((alignDown start 4).toNat + 4 * j)) v (fun _ => True) :=
  ((runs_memReadWord hm (spanAddr start j) p.1 p.2 (wordAligned_spanAddr start j)).tryThen_meets
    (fun s hs => hs.wired (ran_memReadWord _ s).wired) h).congr fun s _ _ => by rw [verifyWords_succ, ofNat_spanAddr]

/-- The comparison shows nothing on the wire (R64). -/
theorem shows_compareLanes (start length w : Word) (cur : Nat) :
    Shows [] fun s => (compareLanes start length w cur 4 0 s).2 :=
  Shows.of_loaded fun s => compareLanes_loaded cur 4 0 s

/-- A word read back that agrees brings the loop one word on (R247). -/
theorem Meets.verifyWords_cons (hm : 1 ≤ cfg.engine.maxAttempts) {j n : Nat} {p : Word × Word}
    (hp : VerifyAgrees start length m j p.2) (due : Bool)
    (hdue : due = (decide (cfg.flash.progressIntervalBytes ≤ spanDone start length j - reported)
      || spanDone start length j == length.toNat))
    (h : Meets cfg (VerifierAt m (if due then spanDone start length j else reported)) bs
      (verifyWords start length n ((alignDown start 4).toNat + 4 * (j + 1))) v (fun _ => True)) :
    Meets cfg (VerifierAt m reported)
      (memReadActs cfg (spanAddr start j) p.1 p.2
        ++ ((if due then [.report (BitVec.ofNat 32 (spanDone start length j)) length .verify] else []) ++ bs))
      (verifyWords start length (n + 1) ((alignDown start 4).toNat + 4 * j)) v (fun _ => True) :=
  ((h.verifyMoved due hdue).after (P := VerifierAt m reported) (shows_compareLanes start length p.2 _)
    fun s hs => hs.loaded (compareLanes_loaded _ 4 0 s)).congr
      (fun s _ hs => if_pos ((compareLanes_word m j s hs.buffer).2 hp)) |>.verifyWords_read hm

/-- The words that agree, read back and reported in front of what follows them (R247). -/
theorem meets_verifyWords (hm : 1 ≤ cfg.engine.maxAttempts) (n : Nat) (ws : List (Word × Word)) (j : Nat)
    (hws : ∀ i p, ws[i]? = some p → VerifyAgrees start length m (j + i) p.2)
    (htail : ∀ reported, Meets cfg (VerifierAt m reported) bs
      (verifyWords start length n ((alignDown start 4).toNat + 4 * (j + ws.length))) v (fun _ => True)) :
    Meets cfg (VerifierAt m reported) (verifyActs cfg start length j reported ws ++ bs)
      (verifyWords start length (ws.length + n) ((alignDown start 4).toNat + 4 * j)) v (fun _ => True) := by
  induction ws generalizing j reported with
  | nil =>
    rw [List.length_nil, Nat.zero_add]
    exact htail reported
  | cons p ws ih =>
    have hrest := fun reported => ih (reported := reported) (j + 1)
      (fun i q hq => by simpa only [Nat.add_assoc, Nat.add_comm 1] using hws (i + 1) q (by simpa using hq))
      (by simpa only [List.length_cons, Nat.add_assoc, Nat.add_comm 1] using htail)
    have hword := Meets.verifyWords_cons (reported := reported) hm (hws 0 p rfl) _ rfl (hrest _)
    rw [List.length_cons, Nat.add_right_comm, verifyActs, List.append_assoc, List.append_assoc]
    exact hword

/-- The first word that differs ends the loop (R247, R306). -/
theorem meets_verifyWords_bad (hm : 1 ≤ cfg.engine.maxAttempts) {j : Nat} {bad : Word × Word}
    (hbad : ¬ VerifyAgrees start length m j bad.2) (n : Nat) :
    Meets cfg (VerifierAt m reported) (memReadActs cfg (spanAddr start j) bad.1 bad.2)
      (verifyWords start length (n + 1) ((alignDown start 4).toNat + 4 * j)) (.error .eWriteVerify) (fun _ => True) := by
  have hcompared := ((Runs.pure cfg (.error .eWriteVerify : Except ErrCode Unit)).meets_true).after
    (P := VerifierAt m reported) (shows_compareLanes start length bad.2 ((alignDown start 4).toNat + 4 * j))
    fun _ _ => trivial
  have hread : Meets cfg (VerifierAt m reported) [] (verifyRead start length n ((alignDown start 4).toNat + 4 * j) bad.2)
      (.error .eWriteVerify) (fun _ => True) :=
    hcompared.congr fun s _ hs => if_neg (mt (compareLanes_word m j s hs.buffer).1 hbad)
  rw [← List.append_nil (memReadActs _ _ _ _)]
  exact hread.verifyWords_read hm

/-- The verification of the span is its words' (R247). -/
theorem Meets.verifySpan
    (h : Meets cfg (VerifierAt m 0) bs (verifyWords start length (spanWords start length) (alignDown start 4).toNat) v
      (fun _ => True)) :
    Meets cfg (HoldsBuffer m) bs (verifySpan start length) v (fun _ => True) := by
  refine (h.after (as := []) (P := HoldsBuffer m)
    (shows_mapSeqRegs fun r => { r with cur := alignDown start 4, reported := 0#32 })
    fun s hs => ⟨hs, rfl⟩).congr fun s _ _ => ?_
  rw [Machine.verifySpan, verifySpan_words]

end Verify

/-! ### The whole update -/

/-- What the two statements share: a span inside the flash, its pages erased and its bytes written as the rule says. -/
structure UpdateWritten (cfg : Params) (start length : Word) (ks : List EraseTalk) (k : WriteTalk) : Prop where
  valid : validConfig cfg = true
  aligned : NvmcAligned cfg
  nonempty : length ≠ 0#32
  base : cfg.flash.flashBase ≤ start.toNat
  size : start.toNat - cfg.flash.flashBase + length.toNat ≤ cfg.flash.flashSize
  pages : ks.length = pageCount cfg start length
  erases : ∀ e ∈ ks, e.good cfg
  write : k.good cfg

section Update

variable {cfg : Params} {start length : Word} {ks : List EraseTalk} {k : WriteTalk} {m : Memory} {bs : List Act}
  {v : Except ErrCode Unit}

theorem UpdateWritten.fits (h : UpdateWritten cfg start length ks k) : start.toNat + length.toNat ≤ 2 ^ 32 := by
  obtain ⟨-, -, -, -, -, -, -, -, -, -, -, -, -, -, -, htop, -⟩ := (validConfig_iff cfg).1 h.valid
  have hbase := h.base
  have hsize := h.size
  omega

/-- The pages of the update, erased and reported. -/
theorem UpdateWritten.meets_erasePages (h : UpdateWritten cfg start length ks k) :
    Meets cfg (fun _ => True) (pagesActs cfg start (pageCount cfg start length) 0 ks)
      (erasePages (pageCount cfg start length) (pageCount cfg start length) 0 (alignDown start cfg.flash.pageSize)) (.ok ())
      (fun _ => True) := by
  rw [alignDown_pageSize h.valid]
  have hpages := Machine.meets_erasePages (start := start) h.valid h.aligned (pageCount cfg start length) ks h.erases 0
    fun i hi => pageInFlash_of_span h.valid h.nonempty h.base h.size (h.pages ▸ hi)
  rw [h.pages] at hpages
  exact hpages

/-- The three parts of an update whose checks pass (R247). -/
theorem UpdateWritten.updateFirmware_eq (h : UpdateWritten cfg start length ks k) (verify : Bool) {s : State}
    (hc : s.cfg = cfg) :
    updateFirmware start length verify s =
      tryThen (erasePages (pageCount cfg start length) (pageCount cfg start length) 0
        (alignDown start cfg.flash.pageSize) s) fun _ s1 =>
        tryThen (writeBuffer start length s1) fun _ s2 => if verify then verifySpan start length s2 else (.ok (), s2) := by
  have hin : spanInFlash cfg start length = true := by simp [spanInFlash, h.base, h.size]
  subst hc
  rw [updateFirmware, if_neg h.nonempty, if_pos hin]
  simp only [pageCount_eq h.valid h.fits]

/-- An update ends as what follows its buffered write does (R247). -/
theorem UpdateWritten.meets (h : UpdateWritten cfg start length ks k) {verify : Bool}
    (htail : Meets cfg (HoldsBuffer m) bs (fun s => if verify then verifySpan start length s else (.ok (), s)) v
      (fun _ => True)) :
    Meets cfg (HoldsBuffer m)
      (pagesActs cfg start (pageCount cfg start length) 0 ks ++ (bufferActs cfg start length m k ++ bs))
      (updateFirmware start length verify) v (fun _ => True) := by
  have hpages := h.meets_erasePages.holdsBuffer (m := m) fun _ _ => trivial
  have hwrite := (plays_writeBuffer (m := m) h.valid h.aligned h.nonempty h.fits h.write).meets.holdsBuffer (m := m)
    fun _ => id
  exact (hpages.tryThen (hwrite.tryThen htail)).congr fun s hc _ => h.updateFirmware_eq verify hc

end Update

theorem exec_updateFirmware (start length : Word) (verify : Bool) (s : State) :
    exec (.updateFirmware start length verify) s = .next (respondUnit (updateFirmware start length verify s)) := rfl

/-- Settles O44: pages, buffered write and, with the verify flag, every word of the span read back. -/
theorem updateFirmwareCompletes : Obligations.UpdateFirmwareCompletes := by
  intro s start length verify ks k ws rest hp hvalid hn hlen hbase hsize hks hgood hk hws hagree acts ha
  have hwritten : UpdateWritten s.cfg start length ks k := ⟨hvalid, hn, hlen, hbase, hsize, hks, hgood, hk⟩
  have htail : Meets s.cfg (HoldsBuffer s.inputs.buffer) (if verify then verifyActs s.cfg start length 0 0 ws else [])
      (fun t => if verify then verifySpan start length t else (.ok (), t)) (.ok ()) (fun _ => True) := by
    cases verify with
    | false => exact Meets.ret _ fun _ _ => trivial
    | true =>
      have hwords := meets_verifyWords (m := s.inputs.buffer) (reported := 0) (bs := []) (maxAttempts_pos hvalid) 0 ws 0
        (fun i p hi => by simpa using hagree i p hi) fun _ => Meets.ret (.ok ()) fun _ _ => trivial
      rw [List.append_nil, Nat.add_zero, hws] at hwords
      exact hwords.verifySpan
  have hmeets := hwritten.meets htail
  rw [← List.append_assoc] at hmeets
  exact ⟨_, exec_updateFirmware start length verify s,
    hmeets.ends rfl hp rfl (worked_updateFirmware start length verify s) ha⟩

/-- Settles O45: the words that agree are read back, and the first that differs ends the update. -/
theorem updateFirmwareFindsMismatch : Obligations.UpdateFirmwareFindsMismatch := by
  intro s start length ks k ws bad rest hp hvalid hn hlen hbase hsize hks hgood hk hws hagree hbad acts ha
  have hwritten : UpdateWritten s.cfg start length ks k := ⟨hvalid, hn, hlen, hbase, hsize, hks, hgood, hk⟩
  have hm := maxAttempts_pos hvalid
  obtain ⟨n, hleft⟩ : ∃ n, spanWords start length = ws.length + (n + 1) :=
    ⟨spanWords start length - ws.length - 1, by omega⟩
  have hwords := meets_verifyWords (reported := 0) hm (n + 1) ws 0
    (fun i p hi => by simpa using hagree i p hi)
    fun _ => by simpa using meets_verifyWords_bad hm hbad n
  rw [← hleft] at hwords
  have hmeets := hwritten.meets (verify := true) hwords.verifySpan
  simp only [← List.append_assoc] at hmeets
  exact ⟨_, exec_updateFirmware start length true s,
    hmeets.ends rfl hp rfl (worked_updateFirmware start length true s) ha⟩

end Sys2Proof.Machine

/-! # The mass-erase family (`45_mass_erase.md`): the scan for the control access port, the mass erase and its outcomes -/

/-! ## The scan (R280, D30) -/

namespace Sys2Proof.Machine

/-- One index of the scan: the select of its identification register, then the read (R280). -/
def readPortId (i : ApIndex) (s : State) : Res Word :=
  tryThen (selectAp i s.cfg.power.apIdr s) fun _ s1 => apRead (regLow s1.cfg.power.apIdr) s1

theorem ran_readPortId (i : ApIndex) (s : State) : Ran s (readPortId i s).2 :=
  (ran_selectAp _ _ s).tryThen fun _ s1 => ran_apRead _ s1

/-- `SCAN` at index `k` (R36). -/
def atScanIndex (k : Nat) (s : State) : State := s.mapSeqRegs fun r => { r with scan := BitVec.ofNat 9 k }

/-- An index whose identification value matches ends the scan (R280). -/
theorem scanPorts_match {n k : Nat} {s t : State} {v : Word}
    (h : readPortId (BitVec.ofNat 8 k) (atScanIndex k s) = (.ok v, t))
    (hv : v &&& t.cfg.ctrlAp.idrMask = t.cfg.ctrlAp.idrValue) :
    scanPorts (n + 1) k s = (BitVec.ofNat 8 k, setCtrlApIndex (BitVec.ofNat 8 k) t) := by
  unfold readPortId atScanIndex at h
  unfold scanPorts
  dsimp only
  generalize selectAp _ _ _ = r at h ⊢
  obtain ⟨c | a, s1⟩ := r
  · simp [tryThen] at h
  · rw [tryThen_ok] at h
    simp only [h, if_pos hv]

/-- An index that does not match, for its value or for a transaction that failed, brings the scan one index on (R280, D30). -/
theorem scanPorts_next {n k : Nat} {s t : State} {r : Except ErrCode Word}
    (h : readPortId (BitVec.ofNat 8 k) (atScanIndex k s) = (r, t))
    (hr : ∀ v, r = .ok v → v &&& t.cfg.ctrlAp.idrMask ≠ t.cfg.ctrlAp.idrValue) :
    scanPorts (n + 1) k s = scanPorts n (k + 1) t := by
  unfold readPortId atScanIndex at h
  rw [scanPorts]
  generalize selectAp _ _ _ = q at h ⊢
  obtain ⟨c | a, s1⟩ := q
  · obtain ⟨-, rfl⟩ := Prod.mk.inj h
    rfl
  · rw [tryThen_ok] at h
    cases r with
    | error c => simp only [h]
    | ok v => simp only [h, if_neg (hr v rfl)]

/-- From `s` to `t` neither the session nor any sequencer register but `SCAN` moved, up to the line's direction and the lock
(R33, R36). -/
structure OnlyScanMoved (s t : State) : Prop where
  session : t.session = { s.session with driveState := t.session.driveState, lock := t.session.lock }
  regs : t.seqRegs = { s.seqRegs with scan := t.seqRegs.scan }

theorem OnlyScanMoved.refl (s : State) : OnlyScanMoved s s := ⟨rfl, rfl⟩

theorem OnlyScanMoved.trans {s t u : State} (h : OnlyScanMoved s t) (k : OnlyScanMoved t u) : OnlyScanMoved s u :=
  ⟨by rw [k.session, h.session], by rw [k.regs, h.regs]⟩

theorem Wired.onlyScanMoved {s t : State} (h : Wired s t) : OnlyScanMoved s t := ⟨h.session, by rw [h.seqRegs]⟩

/-- What one index of the scan puts on the wire. -/
abbrev scanPollActs (cfg : Params) (k : Nat) (p : Poll) : List Act :=
  p.acts cfg cfg.engine.dpSelect false (selectWord (BitVec.ofNat 8 k) cfg.power.apIdr) (regLow cfg.power.apIdr)

theorem scanActs_append (cfg : Params) (k : Nat) (ps qs : List Poll) :
    scanActs cfg k (ps ++ qs) = scanActs cfg k ps ++ scanActs cfg (k + ps.length) qs := by
  induction ps generalizing k with
  | nil => rfl
  | cons p ps ih =>
    rw [List.cons_append, scanActs, scanActs, ih, List.append_assoc, List.length_cons, Nat.add_right_comm, Nat.add_assoc]

/-- One index ends the scan or brings it one index on, as its poll matches or not (R280). -/
theorem scanPorts_poll {p : Poll} (n k : Nat) {s : State} {rest : List (Option Bool)} (hm : 1 ≤ s.cfg.engine.maxAttempts)
    (hp : p.possible s.cfg) (hs : Parked s) (ha : Answers (scanPollActs s.cfg k p) rest s) :
    ∃ t, Played (scanPollActs s.cfg k p) rest s t ∧ OnlyScanMoved s t
      ∧ (idrMatches s.cfg p → scanPorts (n + 1) k s = (BitVec.ofNat 8 k, setCtrlApIndex (BitVec.ofNat 8 k) t))
      ∧ (¬ idrMatches s.cfg p → scanPorts (n + 1) k s = scanPorts n (k + 1) t) := by
  obtain ⟨v, hrun, hvalue⟩ := runs_scanPoll hm (BitVec.ofNat 8 k) p hp
  obtain ⟨hv, ht⟩ := (hrun.congr (g := readPortId (BitVec.ofNat 8 k)) fun u hu => by rw [readPortId, hu])
    (atScanIndex k s) rest rfl hs ha
  have hread : readPortId (BitVec.ofNat 8 k) (atScanIndex k s) = (v, _) := Prod.ext hv rfl
  have hmoved : OnlyScanMoved s (atScanIndex k s) := ⟨rfl, rfl⟩
  have hcfg : (readPortId (BitVec.ofNat 8 k) (atScanIndex k s)).2.cfg = s.cfg := ht.cfg_eq
  refine ⟨_, ht, hmoved.trans (ran_readPortId _ _).wired.onlyScanMoved, ?_, fun hnot => scanPorts_next hread ?_⟩
  · rintro ⟨w, hw, hmatch⟩
    rw [hw] at hvalue
    obtain rfl : v = .ok w := by
      cases v with
      | ok x => exact congrArg Except.ok (Option.some.inj hvalue)
      | error c => cases hvalue
    exact scanPorts_match hread (by rwa [hcfg])
  · rintro w rfl hmatch
    exact hnot ⟨w, hvalue.symm, by rwa [hcfg] at hmatch⟩

/-- Indices none of which matches (R280). -/
theorem scanPorts_before (before : List Poll) (n k : Nat) {s : State} {rest : List (Option Bool)}
    (hm : 1 ≤ s.cfg.engine.maxAttempts) (hposs : ∀ p ∈ before, p.possible s.cfg)
    (hnot : ∀ p ∈ before, ¬ idrMatches s.cfg p) (hs : Parked s) (ha : Answers (scanActs s.cfg k before) rest s) :
    ∃ t, Played (scanActs s.cfg k before) rest s t ∧ OnlyScanMoved s t
      ∧ scanPorts (n + before.length) k s = scanPorts n (k + before.length) t := by
  induction before generalizing k s with
  | nil =>
    obtain rfl : s.inputs.line = rest := by simpa [Answers, LineShows, scanActs] using ha
    exact ⟨s, Played.nil hs, .refl s, rfl⟩
  | cons p ps ih =>
    obtain ⟨hp, hps⟩ := List.forall_mem_cons.1 hposs
    obtain ⟨hpnot, hpsnot⟩ := List.forall_mem_cons.1 hnot
    obtain ⟨t, ht, htmoved, -, hgo⟩ :=
      scanPorts_poll (n + ps.length) k hm hp hs (Answers.split (bs := scanActs s.cfg (k + 1) ps) ha)
    have hcfg := ht.cfg_eq
    rw [← hcfg] at hm hps hpsnot
    obtain ⟨u, hu, humoved, hscan⟩ := ih (k + 1) hm hps hpsnot ht.parked (hcfg ▸ Answers.after ht)
    rw [hcfg] at hu
    refine ⟨u, ht.append hu, htmoved.trans humoved, ?_⟩
    rw [List.length_cons, ← Nat.add_assoc, hgo hpnot, hscan, Nat.add_right_comm, Nat.add_assoc]

/-- The scan answers the first match, or the fallback when there is none, and stores it (R280). -/
theorem findControlAccessPort_finds {s : State} {ps : List Poll} {i : ApIndex} {rest : List (Option Bool)}
    (hm : 1 ≤ s.cfg.engine.maxAttempts) (h : ScanFinds s.cfg ps i) (hs : Parked s)
    (ha : Answers (scanActs s.cfg 0 ps) rest s) :
    ∃ t, findControlAccessPort s = (i, setCtrlApIndex i t) ∧ Played (scanActs s.cfg 0 ps) rest s t
      ∧ t.session = s.session ∧ t.seqRegs = { s.seqRegs with scan := t.seqRegs.scan } := by
  obtain ⟨hfinds, hposs⟩ := h
  have ⟨t, hscan, ht, hmoved⟩ : ∃ t, findControlAccessPort s = (i, setCtrlApIndex i t)
      ∧ Played (scanActs s.cfg 0 ps) rest s t ∧ OnlyScanMoved s t := by
    rcases hfinds with ⟨before, p, rfl, hmatch, hnot, hlen, rfl⟩ | ⟨hlen, hnot, rfl⟩
    · obtain ⟨n, hn⟩ : ∃ n, s.cfg.ctrlAp.scanCount = n + 1 + before.length :=
        ⟨s.cfg.ctrlAp.scanCount - (before.length + 1), by simp at hlen; omega⟩
      rw [scanActs_append, Nat.zero_add, scanActs, scanActs, List.append_nil] at ha ⊢
      obtain ⟨t, ht, htmoved, hgo⟩ :=
        scanPorts_before before (n + 1) 0 hm (fun q hq => hposs q (by simp [hq])) hnot hs ha.split
      have hcfg := ht.cfg_eq
      have hp := hposs p (by simp)
      rw [← hcfg] at hm hp hmatch
      obtain ⟨u, hu, humoved, hend, -⟩ := scanPorts_poll n before.length hm hp ht.parked (hcfg ▸ Answers.after ht)
      rw [hcfg] at hu
      refine ⟨u, ?_, ht.append hu, htmoved.trans humoved⟩
      rw [findControlAccessPort, hn, hgo, Nat.zero_add, hend hmatch]
    · obtain ⟨t, ht, htmoved, hgo⟩ := scanPorts_before ps 0 0 hm hposs hnot hs ha
      refine ⟨t, ?_, ht, htmoved⟩
      rw [findControlAccessPort, ← hlen, ← Nat.zero_add ps.length, hgo, scanPorts, ht.cfg_eq]
  exact ⟨t, hscan, ht, session_eq_of_parked hs ht.parked hmoved.session, hmoved.regs⟩

/-- Settles O46: the scan's outcome, and the response leaves what the scan left. -/
theorem scanFindsControlPort : Obligations.ScanFindsControlPort := by
  intro s ps i rest hp hvalid hfinds ha
  obtain ⟨t, hscan, ht, hsession, hregs⟩ := findControlAccessPort_finds (maxAttempts_pos hvalid) hfinds hp ha
  have hexec : exec .findControlAccessPort s
      = .next (respondValue ((findControlAccessPort s).1.setWidth 32) (findControlAccessPort s).2) := rfl
  have hports := hostPortsKept_of_exec hexec rfl rfl
  rw [hscan] at hexec hports
  have hplayed : Played (scanActs s.cfg 0 ps) rest s (setCtrlApIndex i t) := ht
  refine ⟨_, hexec, ⟨⟨rfl, rfl⟩, rfl⟩, hplayed.respond _, ?_, hregs, hports⟩
  rw [respondValue, respond_session, setCtrlApIndex_session, hsession]

end Sys2Proof.Machine

/-! ## The mass erase (R281, R282) -/

namespace Sys2Proof.Machine

/-! ### The state inside a mass erase -/

/-- The mass erase runs in session `σ`, up to the line's direction and the lock, with `FIRST_ERR` at `e` (R36, R281). -/
structure InErase (σ : Session) (e : Option ErrCode) (s : State) : Prop where
  session : s.session = { σ with driveState := s.session.driveState, lock := s.session.lock }
  firstErr : s.seqRegs.firstErr = e

/-- From every parked state of configuration `cfg` in `P` that the script answers, the step `g`, which returns nothing, plays
the script and leaves a state in `Q`. -/
def Turns (cfg : Params) (P : State → Prop) (as : List Act) (g : State → State) (Q : State → Prop) : Prop :=
  ∀ (s : State) (rest : List (Option Bool)), s.cfg = cfg → Parked s → P s → Answers as rest s →
    Played as rest s (g s) ∧ Q (g s)

section Rules

variable {α : Type} {cfg : Params} {σ : Session} {e : Option ErrCode} {P Q Q' : State → Prop} {as bs : List Act}
  {g h : State → State} {s t : State}

theorem InErase.ran (hs : InErase σ e s) (h : Ran s t) : InErase σ e t where
  session := by rw [h.wired.session, hs.session]
  firstErr := by rw [h.wired.seqRegs, hs.firstErr]

theorem InErase.setPollsLeft (hs : InErase σ e s) (n : Nat) : InErase σ e (setPollsLeft n s) := ⟨hs.session, hs.firstErr⟩

theorem InErase.progress (hs : InErase σ e s) (done total : Word) (label : ProgLabel) :
    InErase σ e (progress done total label s) := by
  unfold Machine.progress
  split <;> exact ⟨hs.session, hs.firstErr⟩

/-- On a parked line the session is `σ` itself (R37). -/
theorem InErase.session_eq (hs : InErase σ e s) (hp : Parked s) (hd : σ.driveState = .driven) (hl : σ.lock = false) :
    s.session = σ := by
  obtain ⟨⟨-, -, hlock⟩, hdrive⟩ := hp
  rw [hs.session, hdrive, hlock, ← hd, ← hl]

theorem Turns.meets {k : State → Res Unit} {v : Except ErrCode Unit} (hg : Turns cfg P as g Q)
    (hk : Meets cfg Q bs k v Q') : Meets cfg P (as ++ bs) (fun s => k (g s)) v Q' := by
  intro s rest hc hp hP ha
  obtain ⟨ht, hQ⟩ := hg s _ hc hp hP ha.split
  obtain ⟨u, heq, hu, hQ'⟩ := hk (g s) rest (ht.cfg_eq.trans hc) ht.parked hQ (Answers.after ht)
  exact ⟨u, heq, ht.append hu, hQ'⟩

theorem Turns.comp (hg : Turns cfg P as g Q) (hh : Turns cfg Q bs h Q') :
    Turns cfg P (as ++ bs) (fun s => h (g s)) Q' := by
  intro s rest hc hp hP ha
  obtain ⟨ht, hQ⟩ := hg s _ hc hp hP ha.split
  obtain ⟨hu, hQ'⟩ := hh (g s) rest (ht.cfg_eq.trans hc) ht.parked hQ (Answers.after ht)
  exact ⟨ht.append hu, hQ'⟩

theorem Turns.congr (hg : Turns cfg P as g Q) (hgh : ∀ s, s.cfg = cfg → P s → h s = g s) : Turns cfg P as h Q := by
  intro s rest hc hp hP ha
  rw [hgh s hc hP]
  exact hg s rest hc hp hP ha

theorem Turns.refl : Turns cfg P [] (fun s => s) P := by
  intro s rest _ hp hP ha
  obtain rfl : s.inputs.line = rest := by simpa [Answers, LineShows] using ha
  exact ⟨Played.nil hp, hP⟩

theorem Shows.turns (hg : Shows as g) (hQ : ∀ s, P s → Q (g s)) : Turns cfg P as g Q := fun s rest _ hp hP ha =>
  ⟨hg s rest hp ha, hQ s hP⟩

/-- A transaction that succeeds notes nothing (R281). -/
theorem Runs.turns_note {f : State → Res α} {a : α} (hf : Runs cfg as f (.ok a)) (hran : ∀ s, Ran s (f s).2) :
    Turns cfg (InErase σ e) as (fun s => note (f s)) (InErase σ e) := by
  intro s rest hc hp hP ha
  obtain ⟨hv, ht⟩ := hf s rest hc hp ha
  have heq : f s = (.ok a, (f s).2) := Prod.ext hv rfl
  dsimp only
  rw [heq]
  exact ⟨ht, hP.ran (hran s)⟩

/-- Without a noted error the step runs (R281). -/
theorem Turns.ifNoErr (hg : Turns cfg (InErase σ none) as g Q) : Turns cfg (InErase σ none) as (ifNoErr g) Q :=
  hg.congr fun _ _ hs => if_pos hs.firstErr

theorem turns_setFirstErr (c : Option ErrCode) : Turns cfg (InErase σ e) [] (setFirstErr c) (InErase σ c) :=
  Shows.turns (shows_mapSeqRegs fun r => { r with firstErr := c }) fun _ hs => ⟨hs.session, rfl⟩

end Rules

/-! ### The status poll -/

section Status

variable {cfg : Params} {σ : Session} {e : Option ErrCode} {total : Nat} {p : ApPoll}

/-- What one status poll puts on the wire. -/
abbrev statusPollActs (cfg : Params) (p : ApPoll) : List Act := p.acts cfg (regLow cfg.ctrlAp.ctrlapEraseAllStatus)

/-- One poll is reported, and ends the wait or brings it one poll on (R281, D23). -/
theorem statusPoll_poll (hm : 1 ≤ cfg.engine.maxAttempts) (hp : p.possible cfg) (total n : Nat) {s : State}
    {rest : List (Option Bool)} (hc : s.cfg = cfg) (hs : Parked s) (hin : InErase σ e s)
    (ha : Answers (statusPollActs cfg p) rest s) :
    ∃ t, Played (statusPollActs cfg p) rest s t ∧ InErase σ e t
      ∧ statusPoll total (n + 1) s
          = if p.value = some cfg.ctrlAp.statusIdle then
              progress (BitVec.ofNat 32 total) (BitVec.ofNat 32 total) .massErase t
            else
              statusPoll total n (delayIfMore n .massErasePoll
                (progress (BitVec.ofNat 32 (total - n)) (BitVec.ofNat 32 total) .massErase t)) := by
  obtain ⟨v, hrun, hvalue⟩ := p.runs hm (regLow cfg.ctrlAp.ctrlapEraseAllStatus) hp
  obtain ⟨hv, ht⟩ := hrun s rest hc hs ha
  have hcfg := ht.cfg_eq.trans hc
  refine ⟨setPollsLeft n (apRead (regLow cfg.ctrlAp.ctrlapEraseAllStatus) s).2, ht.mapSeqRegs _,
    (hin.ran (ran_apRead _ s)).setPollsLeft n, ?_⟩
  cases v with
  | ok w =>
    by_cases hw : w = cfg.ctrlAp.statusIdle <;>
      simp [statusPoll, hc, hv, hcfg, ← hvalue, Except.toOption, hw]
  | error c => simp [statusPoll, hc, hv, ← hvalue, Except.toOption]

theorem statusActs_cons (cfg : Params) (total : Nat) (idle : Bool) (made : Nat) (p : ApPoll) {ps : List ApPoll}
    (h : ps ≠ []) :
    statusActs cfg total idle made (p :: ps)
      = statusPollActs cfg p
        ++ (([.report (BitVec.ofNat 32 (made + 1)) (BitVec.ofNat 32 total) .massErase] ++ [.pause .massErasePoll])
          ++ statusActs cfg total idle (made + 1) ps) := by
  cases ps with
  | nil => exact absurd rfl h
  | cons q qs => simp [statusActs]

/-- A poll that does not read idle, with polls behind it (R281). -/
theorem Turns.statusPoll_cons (hm : 1 ≤ cfg.engine.maxAttempts) (hp : p.possible cfg)
    (hbusy : p.value ≠ some cfg.ctrlAp.statusIdle) {ps : List ApPoll} (hps : ps ≠ []) {made n : Nat} (hn : n ≠ 0)
    (htotal : made + (n + 1) = total) {idle : Bool} {Q : State → Prop}
    (h : Turns cfg (InErase σ e) (statusActs cfg total idle (made + 1) ps) (statusPoll total n) Q) :
    Turns cfg (InErase σ e) (statusActs cfg total idle made (p :: ps)) (statusPoll total (n + 1)) Q := by
  have hnext := (((shows_progress (BitVec.ofNat 32 (made + 1)) (BitVec.ofNat 32 total) .massErase).comp
    (shows_delay .massErasePoll)).turns (cfg := cfg) (P := InErase σ e) (Q := InErase σ e) fun s hs =>
      (hs.progress _ _ _).ran (ran_delay _ _)).comp h
  intro s rest hc hs hin ha
  rw [statusActs_cons cfg total idle made p hps] at ha ⊢
  obtain ⟨t, ht, htin, hgo⟩ := statusPoll_poll hm hp total n hc hs hin ha.split
  obtain ⟨hu, hQ⟩ := hnext t rest (ht.cfg_eq.trans hc) ht.parked htin (Answers.after ht)
  rw [hgo, if_neg hbusy, delayIfMore, if_neg hn, show total - n = made + 1 by omega]
  exact ⟨ht.append hu, hQ⟩

/-- Polls that end with the first one that reads idle (R281). -/
theorem turns_statusPoll_idle (hm : 1 ≤ cfg.engine.maxAttempts) (stale : Word) {busy : List ApPoll}
    (hbusy : StaysBusy cfg busy) (made n : Nat) (htotal : made + n = total) (hlen : busy.length < n) :
    Turns cfg (InErase σ e) (statusActs cfg total true made (busy ++ [.saw stale cfg.ctrlAp.statusIdle]))
      (statusPoll total n) (InErase σ e) := by
  induction busy generalizing made n with
  | nil =>
    obtain ⟨n, rfl⟩ : ∃ k, n = k + 1 := ⟨n - 1, by simp at hlen; omega⟩
    intro s rest hc hs hin ha
    obtain ⟨t, ht, htin, hend⟩ := statusPoll_poll (p := .saw stale cfg.ctrlAp.statusIdle) hm trivial total n hc hs hin
      ha.split
    have hidle : (ApPoll.saw stale cfg.ctrlAp.statusIdle).value = some cfg.ctrlAp.statusIdle := rfl
    rw [hend, if_pos hidle]
    exact ⟨ht.append (shows_progress _ _ _ t rest ht.parked (Answers.after ht)), htin.progress _ _ _⟩
  | cons p ps ih =>
    obtain ⟨n, rfl⟩ : ∃ k, n = k + 1 := ⟨n - 1, by simp at hlen; omega⟩
    obtain ⟨⟨hpbusy, hp⟩, hps⟩ := List.forall_mem_cons.1 hbusy
    have hmore : ps.length < n := by simpa using hlen
    exact (ih hps (made + 1) n (by omega) hmore).statusPoll_cons hm hp hpbusy (by simp) (by omega) htotal

/-- Polls none of which reads idle run out, and that is noted (R281). -/
theorem turns_statusPoll_never (hm : 1 ≤ cfg.engine.maxAttempts) {busy : List ApPoll} (hbusy : StaysBusy cfg busy)
    (made : Nat) (htotal : made + busy.length = total) :
    Turns cfg (InErase σ e) (statusActs cfg total false made busy) (statusPoll total busy.length)
      (InErase σ (some .eTimeout)) := by
  induction busy generalizing made with
  | nil => exact turns_setFirstErr _
  | cons p ps ih =>
    obtain ⟨⟨hpbusy, hp⟩, hps⟩ := List.forall_mem_cons.1 hbusy
    rw [List.length_cons] at htotal
    cases ps with
    | nil =>
      intro s rest hc hs hin ha
      obtain ⟨t, ht, htin, hgo⟩ := statusPoll_poll hm hp total 0 hc hs hin ha.split
      rw [List.length_singleton, hgo, if_neg hpbusy, Nat.sub_zero, ← htotal]
      have hlast := shows_progress (BitVec.ofNat 32 (made + 1)) (BitVec.ofNat 32 (made + 1)) .massErase t rest ht.parked
        (by simpa [← htotal] using Answers.after ht)
      exact ⟨ht.append hlast, (htin.progress _ _ _).session, rfl⟩
    | cons q qs => exact (ih hps (made + 1) (by omega)).statusPoll_cons hm hp hpbusy (by simp) (by simp) htotal

end Status

/-! ### Phases 1 and 2: the erase and the way out (R281) -/

section Phases

variable {cfg : Params} {σ : Session} {e : Option ErrCode} {as : List Act}

/-- The optional reset and the trigger (R281). -/
def massTriggerActs (cfg : Params) : List Act :=
  (if cfg.ctrlAp.assertReset then [.write (regLow cfg.ctrlAp.ctrlapReset) true cfg.ctrlAp.resetAssert] else [])
    ++ [.write (regLow cfg.ctrlAp.ctrlapEraseAll) true cfg.ctrlAp.eraseAllStart]

/-- A mass erase's script as the operation runs: the scan, the select of the control port, then phase by phase. -/
theorem massStartActs_append (cfg : Params) (ap : ApIndex) (scan : List Poll) (as bs : List Act) :
    massStartActs cfg ap scan ++ as ++ massLeaveActs cfg ++ bs
      = scanActs cfg 0 scan
        ++ ([selectAct cfg ap cfg.ctrlAp.ctrlapReset] ++ (massTriggerActs cfg ++ as ++ massLeaveActs cfg ++ bs)) := by
  simp only [massStartActs, massTriggerActs, List.append_assoc]

theorem turns_apWrite (hm : 1 ≤ cfg.engine.maxAttempts) (addr : Addr4) (w : Word) :
    Turns cfg (InErase σ e) [.write addr true w] (fun s => note (apWrite addr w s)) (InErase σ e) :=
  (runs_apWrite hm addr w).turns_note (ran_apWrite addr w)

/-- Back to the memory-access port (R281). -/
theorem turns_selectMemAp (hm : 1 ≤ cfg.engine.maxAttempts) :
    Turns cfg (InErase σ e) [selectAct cfg cfg.power.memApIndex cfg.power.apCsw]
      (fun s => note (selectAp s.cfg.power.memApIndex s.cfg.power.apCsw s)) (InErase σ e) :=
  ((runs_selectAp hm cfg.power.memApIndex cfg.power.apCsw).congr fun s hc => by rw [hc]).turns_note
    fun s => ran_selectAp _ _ s

/-- Phase 1 without an error before its poll: the poll decides what is noted. -/
theorem turns_erasePhase (hm : 1 ≤ cfg.engine.maxAttempts)
    (hpolls : Turns cfg (InErase σ none) as
      (statusPoll (mpolls cfg cfg.ctrlAp.massEraseTimeoutMs) (mpolls cfg cfg.ctrlAp.massEraseTimeoutMs)) (InErase σ e)) :
    Turns cfg (InErase σ none) (massTriggerActs cfg ++ as) erasePhase (InErase σ e) := by
  have hheld : Turns cfg (InErase σ none)
      (if cfg.ctrlAp.assertReset then [.write (regLow cfg.ctrlAp.ctrlapReset) true cfg.ctrlAp.resetAssert] else [])
      (fun s => if cfg.ctrlAp.assertReset then note (apWrite (regLow cfg.ctrlAp.ctrlapReset) cfg.ctrlAp.resetAssert s)
        else s) (InErase σ none) := by
    split
    · exact turns_apWrite hm _ _
    · exact Turns.refl
  have htrigger := (turns_apWrite (σ := σ) (e := none) hm (regLow cfg.ctrlAp.ctrlapEraseAll)
    cfg.ctrlAp.eraseAllStart).ifNoErr
  have hpoll := (((shows_mapSeqRegs fun r =>
    { r with pollsLeft := BitVec.ofNat 32 (mpolls cfg cfg.ctrlAp.massEraseTimeoutMs) }).turns fun _ hs =>
      hs.setPollsLeft (mpolls cfg cfg.ctrlAp.massEraseTimeoutMs)).comp hpolls).ifNoErr
  exact ((hheld.comp htrigger).comp hpoll).congr fun s hc _ => by subst hc; rfl

theorem turns_leavePhase (hm : 1 ≤ cfg.engine.maxAttempts) :
    Turns cfg (InErase σ e) (massLeaveActs cfg) leavePhase (InErase σ e) :=
  ((turns_apWrite hm (regLow cfg.ctrlAp.ctrlapReset) cfg.ctrlAp.resetRelease).comp (turns_selectMemAp hm)).congr
    fun s hc _ => by subst hc; rfl

end Phases

/-! ### Phase 3: the link comes back (R281) -/

/-- `connect` and `disconnect` leave `FIRST_ERR` alone (R36). -/
theorem firstErr_connectStable : ConnectStable (Same fun s => s.seqRegs.firstErr) where
  toEngineStable := .same fun _ _ h => by rw [h.seqRegs]
  connection _ _ := rfl
  idcode _ _ := rfl
  polls _ _ := rfl
  reinit _ := rfl

section Verify

variable {cfg : Params} {σ : Session} {e : Option ErrCode}

theorem turns_disconnect :
    Turns cfg (InErase σ e) [.send (resetBits cfg)] disconnect (InErase { σ with connectionState := .disconnected } e) := by
  rintro s rest rfl hp hin ha
  obtain rfl : s.inputs.line = rest := by simpa [Answers, LineShows, Act.answer] using ha
  have hreset := hin.ran (ran_lineReset s)
  have hplayed : Played [.send (resetBits s.cfg)] s.inputs.line s (disconnect s) := (sends_lineReset s).played hp
  exact ⟨hplayed, ⟨congrArg (fun x => { x with connectionState := .disconnected }) hreset.session, hreset.firstErr⟩⟩

/-- An answered `connect` marks the session with the code read (R170). -/
theorem plays_connect (hm : 1 ≤ cfg.engine.maxAttempts) {id : Word} {ident : List Act} {ps : List DpPoll}
    (hid : Identifies cfg id ident) (hps : PowersUp cfg ps) :
    Plays cfg (InErase σ e) (ident ++ attachActs cfg ps) connect
      (InErase { σ with connectionState := .connected, idcodeReg := id } e) := by
  rintro s rest rfl hp hin ha
  obtain ⟨t, heq, ht, hsession⟩ := connect_completes hm hid hps ha
  have hnote := (firstErr_connectStable.ends_connect s).rel
  rw [heq] at hnote
  refine ⟨id, t, heq, ht, ?_, hnote.trans hin.firstErr⟩
  rw [hsession, hin.session]

/-! ### Phase 4: the verification (R282) -/

/-- The sample addresses of a valid configuration are word addresses (R340). -/
theorem wordAligned_verifyAddrs (hvalid : validConfig cfg = true) : ∀ a ∈ cfg.ctrlAp.verifyAddrs, wordAligned a = true := by
  obtain ⟨-, -, -, -, -, -, -, -, -, -, -, -, -, -, -, -, -, -, -, -, haligned, -⟩ := (validConfig_iff cfg).1 hvalid
  exact haligned

/-- Every sample is read, whatever the earlier ones showed (R281). -/
theorem runs_verifyAddrs (hm : 1 ≤ cfg.engine.maxAttempts) (addrs : List Word) (samples : List (Word × Word))
    (haligned : ∀ a ∈ addrs, wordAligned a = true) (hlen : samples.length = addrs.length) (verified : Bool) :
    Runs cfg (massSampleActs cfg addrs samples) (verifyAddrs addrs verified)
      (.ok (verified && samples.all fun p => p.2 == cfg.flash.erasedWord)) := by
  induction addrs generalizing samples verified with
  | nil =>
    obtain rfl := List.length_eq_zero_iff.1 hlen
    rw [List.all_nil, Bool.and_true]
    exact Runs.pure cfg _
  | cons a as ih =>
    obtain ⟨ha, has⟩ := List.forall_mem_cons.1 haligned
    cases samples with
    | nil => simp at hlen
    | cons p ps =>
      rw [List.all_cons, ← Bool.and_assoc]
      exact (runs_memReadWord hm a p.1 p.2 ha).tryThen
        (k := fun v s => verifyAddrs as (verified && v == s.cfg.flash.erasedWord) s)
        ((ih ps has (by simpa using hlen) _).congr fun s hc => by rw [hc])

/-- The protection status read and the memory-access port selected again, whatever the read gave (R281, R282). -/
def checkUnlocked (verified : Bool) (s : State) : Res Unit :=
  let p := apRead (regLow s.cfg.ctrlAp.ctrlapApprotectStatus) s
  let back := note (selectAp p.2.cfg.power.memApIndex p.2.cfg.power.apCsw p.2)
  match p.1 with
  | .error c => (.error c, back)
  | .ok v =>
    match back.seqRegs.firstErr with
    | some c => (.error c, back)
    | none =>
      if verified ∧ v &&& back.cfg.ctrlAp.unlockedMask ≠ 0#32 then (.ok (), back)
      else (.error .eMassEraseVerify, back)

theorem verifyPhase_eq (ap : ApIndex) (s : State) :
    verifyPhase ap s = tryThen (verifyAddrs s.cfg.ctrlAp.verifyAddrs true s) fun verified s1 =>
      tryThen (selectAp ap s1.cfg.ctrlAp.ctrlapApprotectStatus s1) fun _ => checkUnlocked verified := rfl

/-- What the verification answers to its samples and its protection status (R282). -/
def massVerdict (cfg : Params) (verified : Bool) (status : Word) : Except ErrCode Unit :=
  if verified ∧ status &&& cfg.ctrlAp.unlockedMask ≠ 0#32 then .ok () else .error .eMassEraseVerify

theorem meets_checkUnlocked (hm : 1 ≤ cfg.engine.maxAttempts) (verified : Bool) (status : Word × Word) :
    Meets cfg (InErase σ none)
      (apReadActs cfg (regLow cfg.ctrlAp.ctrlapApprotectStatus) status.1 status.2
        ++ [selectAct cfg cfg.power.memApIndex cfg.power.apCsw])
      (checkUnlocked verified) (massVerdict cfg verified status.2) (InErase σ none) := by
  intro s rest hc hp hin ha
  obtain ⟨hv, ht⟩ := runs_apRead hm (regLow cfg.ctrlAp.ctrlapApprotectStatus) status.1 status.2 s _ hc hp ha.split
  have hread := hin.ran (ran_apRead (regLow cfg.ctrlAp.ctrlapApprotectStatus) s)
  obtain ⟨hu, hback⟩ := turns_selectMemAp (σ := σ) (e := none) hm _ rest (ht.cfg_eq.trans hc) ht.parked hread
    (Answers.after ht)
  have hcfg := hu.cfg_eq.trans (ht.cfg_eq.trans hc)
  refine ⟨_, ?_, ht.append hu, hback⟩
  simp only [checkUnlocked, hc, hv, hback.firstErr, hcfg, massVerdict]
  split <;> rfl

/-- The script of the verification (R281, R282). -/
def verifyPhaseActs (cfg : Params) (ap : ApIndex) (samples : List (Word × Word)) (status : Word × Word) : List Act :=
  massSampleActs cfg cfg.ctrlAp.verifyAddrs samples ++ ([selectAct cfg ap cfg.ctrlAp.ctrlapApprotectStatus]
    ++ (apReadActs cfg (regLow cfg.ctrlAp.ctrlapApprotectStatus) status.1 status.2
      ++ [selectAct cfg cfg.power.memApIndex cfg.power.apCsw]))

theorem meets_verifyPhase (hvalid : validConfig cfg = true) (ap : ApIndex) {samples : List (Word × Word)}
    (hlen : samples.length = cfg.ctrlAp.verifyAddrs.length) (status : Word × Word) :
    Meets cfg (InErase σ none) (verifyPhaseActs cfg ap samples status) (verifyPhase ap)
      (massVerdict cfg (samples.all fun p => p.2 == cfg.flash.erasedWord) status.2)
      (InErase σ none) := by
  have hm := maxAttempts_pos hvalid
  have hselect := (runs_selectAp hm ap cfg.ctrlAp.ctrlapApprotectStatus).tryThen_meets
    (P := InErase σ none) (k := fun _ => checkUnlocked (samples.all fun p => p.2 == cfg.flash.erasedWord))
    (fun s hs => hs.ran (ran_selectAp _ _ s)) (meets_checkUnlocked hm _ status)
  refine ((runs_verifyAddrs hm _ _ (wordAligned_verifyAddrs hvalid) hlen true).tryThen_meets
    (k := fun verified s1 => tryThen (selectAp ap s1.cfg.ctrlAp.ctrlapApprotectStatus s1) fun _ => checkUnlocked verified)
    (fun s hs => hs.ran (ran_verifyAddrs _ _ s)) (hselect.congr fun s hc _ => ?_)).congr fun s hc _ => ?_
  · rw [hc, Bool.true_and]
  · rw [verifyPhase_eq, hc]

/-! ### The whole mass erase -/

/-- Behind phase 2: a noted error ends the operation, else the link is brought back and the erase verified (R281). -/
def reconnectAndVerify (ap : ApIndex) (s : State) : Res Unit :=
  match s.seqRegs.firstErr with
  | some c => (.error c, s)
  | none =>
    tryThen (connect (disconnect s)) fun _ s3 => tryThen (memApInit s3) fun _ s4 => verifyPhase ap s4

theorem reconnectAndVerify_clean (ap : ApIndex) {s : State} (h : s.seqRegs.firstErr = none) :
    reconnectAndVerify ap s
      = tryThen (connect (disconnect s)) fun _ s3 => tryThen (memApInit s3) fun _ => verifyPhase ap := by
  rw [reconnectAndVerify, h]

theorem reconnectAndVerify_noted (ap : ApIndex) {s : State} {c : ErrCode} (h : s.seqRegs.firstErr = some c) :
    reconnectAndVerify ap s = (.error c, s) := by
  rw [reconnectAndVerify, h]

/-- The mass erase behind its scan, which answered `ap`. -/
def eraseThrough (ap : ApIndex) (s : State) : Res Unit :=
  tryThen (selectAp ap s.cfg.ctrlAp.ctrlapReset s) fun _ s1 => reconnectAndVerify ap (leavePhase (erasePhase s1))

theorem massErase_eq (s : State) :
    massErase s = eraseThrough (findControlAccessPort s).1 (setFirstErr none (findControlAccessPort s).2) := rfl

/-- Phases 3 and 4: the link brought back by the dormant wake, the samples, the protection status (R281, R282). -/
def massReturnActs (cfg : Params) (ap : ApIndex) (k : MassTalk) : List Act :=
  [.send (resetBits cfg)] ++ (([.send (wakeBits cfg), .read cfg.engine.dpIdcode false k.id] ++ attachActs cfg k.power)
    ++ (memApActs cfg ++ verifyPhaseActs cfg ap k.samples k.status))

theorem meets_reconnectAndVerify (hvalid : validConfig cfg = true) (ap : ApIndex) {k : MassTalk}
    (hk : k.reaches cfg ap) :
    Meets cfg (InErase σ none) (massReturnActs cfg ap k) (reconnectAndVerify ap)
      (massVerdict cfg (k.samples.all fun p => p.2 == cfg.flash.erasedWord) k.status.2)
      (InErase { σ with connectionState := .connected, idcodeReg := k.id } none) := by
  obtain ⟨-, -, -, hid, hpower, hlen⟩ := hk
  have hm := maxAttempts_pos hvalid
  have hverify := (runs_memApInit hm).tryThen_meets (k := fun _ => verifyPhase ap)
    (P := InErase { σ with connectionState := .connected, idcodeReg := k.id } none)
    (fun s hs => hs.ran (ran_memApInit s)) (meets_verifyPhase hvalid ap hlen k.status)
  have hconnect := (plays_connect (σ := { σ with connectionState := .disconnected }) (e := none) hm
    ⟨hid, .inl rfl⟩ hpower).tryThen_meets hverify
  exact (turns_disconnect.meets hconnect).congr fun s _ hs => reconnectAndVerify_clean ap hs.firstErr

/-- From the select of the control port to its end, as the poll and what follows phase 2 go (R281). -/
theorem meets_eraseThrough (hm : 1 ≤ cfg.engine.maxAttempts) (ap : ApIndex) {σ' : Session} {e' : Option ErrCode}
    {as bs : List Act} {v : Except ErrCode Unit}
    (hpolls : Turns cfg (InErase σ none) as
      (statusPoll (mpolls cfg cfg.ctrlAp.massEraseTimeoutMs) (mpolls cfg cfg.ctrlAp.massEraseTimeoutMs)) (InErase σ e))
    (hrest : Meets cfg (InErase σ e) bs (reconnectAndVerify ap) v (InErase σ' e')) :
    Meets cfg (InErase σ none)
      ([selectAct cfg ap cfg.ctrlAp.ctrlapReset] ++ (massTriggerActs cfg ++ as ++ massLeaveActs cfg ++ bs))
      (eraseThrough ap) v (InErase σ' e') :=
  ((runs_selectAp hm ap cfg.ctrlAp.ctrlapReset).tryThen_meets
    (k := fun _ s1 => reconnectAndVerify ap (leavePhase (erasePhase s1))) (fun s hs => hs.ran (ran_selectAp _ _ s))
    (((turns_erasePhase hm hpolls).comp (turns_leavePhase hm)).meets hrest)).congr fun s hc _ => by
      rw [eraseThrough, hc]

/-- A mass erase behind the scan: what the host, the wire and the session see of its end. -/
theorem massErase_ends {s : State} {ap : ApIndex} {scan : List Poll} {as : List Act} {v : Except ErrCode Unit}
    {rest : List (Option Bool)} (hm : 1 ≤ s.cfg.engine.maxAttempts) (hp : Parked s) (hscan : ScanFinds s.cfg scan ap)
    (h : Meets s.cfg (InErase { s.session with ctrlApIndex := ap } none) as (eraseThrough ap) v
      (InErase σ e)) (hd : σ.driveState = s.session.driveState) (hl : σ.lock = s.session.lock)
    (ha : Answers (scanActs s.cfg 0 scan ++ as) rest s) :
    ∃ t, exec .massErase s = .next t ∧ Responded (resultStatus v) t
      ∧ Played (scanActs s.cfg 0 scan ++ as) rest s t ∧ t.session = σ := by
  obtain ⟨u, hfound, hu, husession, -⟩ := findControlAccessPort_finds hm hscan hp ha.split
  have hin : InErase { s.session with ctrlApIndex := ap } none (setFirstErr none (setCtrlApIndex ap u)) :=
    ⟨by simp [husession], rfl⟩
  obtain ⟨t, heq, ht, hend⟩ := h (setFirstErr none (setCtrlApIndex ap u)) rest hu.cfg_eq hu.parked hin (Answers.after hu)
  have hexec : exec .massErase s = .next (respondUnit (massErase s)) := rfl
  rw [massErase_eq, hfound, heq] at hexec
  obtain ⟨⟨-, -, hlock⟩, hdrive⟩ := hp
  refine ⟨_, hexec, respondUnit_responded (v, t), (hu.append ht).respond _, ?_⟩
  rw [respondUnit_session]
  exact hend.session_eq ht.parked (hd.trans hdrive) (hl.trans hlock)

theorem massActs_eq (cfg : Params) (ap : ApIndex) (k : MassTalk) :
    massActs cfg ap k
      = massStartActs cfg ap k.scan
        ++ statusActs cfg (mpolls cfg cfg.ctrlAp.massEraseTimeoutMs) true 0 (k.busy ++ [.saw k.idleStale cfg.ctrlAp.statusIdle])
        ++ massLeaveActs cfg ++ massReturnActs cfg ap k := by
  simp only [massActs, massReturnActs, verifyPhaseActs, List.append_assoc, List.cons_append, List.nil_append]

theorem MassTalk.verified_iff (k : MassTalk) :
    k.verified cfg
      ↔ (k.samples.all fun p => p.2 == cfg.flash.erasedWord) ∧ k.status.2 &&& cfg.ctrlAp.unlockedMask ≠ 0#32 := by
  simp [MassTalk.verified]

end Verify

/-- Settles O47: the poll decides whether the link is brought back, and then the samples and the protection status decide. -/
theorem massEraseOutcomes : Obligations.MassEraseOutcomes := by
  intro s ap k rest hp hvalid
  have hm := maxAttempts_pos hvalid
  refine ⟨fun hk ha => ?_, ?_⟩
  · have ⟨hscan, hbusy, hlen, _⟩ := hk
    have hpolls := turns_statusPoll_idle (σ := { s.session with ctrlApIndex := ap }) (e := none) hm k.idleStale hbusy 0 _
      (Nat.zero_add _) hlen
    rw [massActs_eq, massStartActs_append] at ha ⊢
    obtain ⟨t, hexec, hresp, hplayed, hsession⟩ := massErase_ends hm hp hscan
      (meets_eraseThrough hm ap hpolls (meets_reconnectAndVerify hvalid ap hk)) rfl rfl ha
    refine ⟨t, hexec, hplayed, fun hver => ?_, fun hver => ?_, hsession⟩
    · rwa [massVerdict, if_pos (k.verified_iff.1 hver)] at hresp
    · rwa [massVerdict, if_neg (mt k.verified_iff.2 hver)] at hresp
  · intro hscan hbusy hlen acts ha
    have hpolls := turns_statusPoll_never (σ := { s.session with ctrlApIndex := ap }) (e := none) hm hbusy 0
      (Nat.zero_add _)
    rw [hlen] at hpolls
    have hnoted : Meets s.cfg (InErase { s.session with ctrlApIndex := ap } (some .eTimeout)) [] (reconnectAndVerify ap)
        (.error .eTimeout) (InErase { s.session with ctrlApIndex := ap } (some .eTimeout)) :=
      (Meets.ret _ fun _ hs => hs).congr fun _ _ hs => reconnectAndVerify_noted ap hs.firstErr
    have hacts := massStartActs_append s.cfg ap k.scan
      (statusActs s.cfg (mpolls s.cfg s.cfg.ctrlAp.massEraseTimeoutMs) false 0 k.busy) []
    rw [List.append_nil] at hacts
    simp only [acts, hacts] at ha ⊢
    exact massErase_ends hm hp hscan (meets_eraseThrough hm ap hpolls hnoted) rfl rfl ha

end Sys2Proof.Machine

/-! # The exceptions family (`60_exceptions.md`): what a precondition error leaves -/

/-! ## Operations whose check fails (R305) -/

namespace Sys2Proof.Machine

/-! ### The response alone -/

/-- A response touches its own port, and counts a free value where `RSP_DATA` is unspecified (R124; log 4). -/
theorem onlyResponded_respond (r : Res (Option Word)) : OnlyResponded r.2 (respond r) := by
  obtain ⟨c | (_ | v), s⟩ := r <;> rfl

/-- An instruction whose operation returns an error in the state it found answers with the error's code and touches nothing. -/
theorem exec_touches_nothing {α : Type} {i : Instr} {s : State} {c : ErrCode} {r : Res α} {g : α → Option Word}
    (hr : r = (.error c, s)) (hexec : exec i s = .next (respond (r.1.map g, r.2))) :
    ∃ t, exec i s = .next t ∧ Responded c.toByte t ∧ OnlyResponded s t := by
  subst hr
  exact ⟨_, hexec, ⟨rfl, rfl⟩, onlyResponded_respond (.error c, s)⟩

/-! ### Each check, failed -/

section Checks

variable {s : State} {a v n : Word}

theorem memReadWord_misaligned (h : wordAligned a = false) : memReadWord a s = (.error .eMisaligned, s) :=
  if_neg (by simp [h])

theorem memWriteWord_misaligned (h : wordAligned a = false) : memWriteWord a v s = (.error .eMisaligned, s) :=
  if_neg (by simp [h])

theorem flashWriteWord_misaligned (h : wordAligned a = false) : flashWriteWord a v s = (.error .eMisaligned, s) :=
  if_neg (by simp [h])

theorem erasePage_outside
    (h : a.toNat < s.cfg.flash.flashBase ∨ s.cfg.flash.flashBase + s.cfg.flash.flashSize ≤ a.toNat) :
    erasePage a s = (.error .eRange, s) :=
  if_neg fun hin => by
    rw [inFlash_iff] at hin
    omega

theorem writeBuffer_beyond (hn : n ≠ 0#32) (h : 2 ^ 32 < a.toNat + n.toNat) : writeBuffer a n s = (.error .eRange, s) := by
  rw [writeBuffer, if_neg hn, if_pos h]

theorem spanInFlash_iff (cfg : Params) (start length : Word) :
    spanInFlash cfg start length = true
      ↔ cfg.flash.flashBase ≤ start.toNat
          ∧ start.toNat + length.toNat ≤ cfg.flash.flashBase + cfg.flash.flashSize := by
  simp only [spanInFlash, Bool.and_eq_true, decide_eq_true_eq]
  omega

theorem updateFirmware_outside {verify : Bool} (hn : n ≠ 0#32)
    (h : a.toNat < s.cfg.flash.flashBase ∨ s.cfg.flash.flashBase + s.cfg.flash.flashSize < a.toNat + n.toNat) :
    updateFirmware a n verify s = (.error .eRange, s) := by
  have hout : ¬ spanInFlash s.cfg a n = true := by
    rw [spanInFlash_iff]
    omega
  rw [updateFirmware, if_neg hn, if_neg hout]

theorem linkInit_invalid {p : Params} (h : ¬ ConfigConstraints p) : linkInit p s = (.error .eConfig, s) :=
  if_neg fun hvalid => h ((validConfig_iff p).1 hvalid)

theorem resetTarget_without_pin (h : s.cfg.link.hasNreset = false) : resetTarget s = (.error .eUnsupported, s) :=
  if_neg (by simp [h])

end Checks

/-- Settles O50: each failed check returns its error in the state it found, and the port refuses a code before anything runs. -/
theorem preconditionErrorsTouchNothing : Obligations.PreconditionErrorsTouchNothing := by
  intro s a v n verify
  refine ⟨fun h => ⟨?read, ?write, ?flashWrite⟩, fun h => ?erase, fun hn h => ?buffer, fun hn h => ?update, fun h => ?init,
    fun h => ?reset, fun c rest cmd hs hb hc hop => ?port⟩
  case read => exact exec_touches_nothing (memReadWord_misaligned h) rfl
  case write => exact exec_touches_nothing (memWriteWord_misaligned h) rfl
  case flashWrite => exact exec_touches_nothing (flashWriteWord_misaligned h) rfl
  case erase => exact exec_touches_nothing (erasePage_outside h) rfl
  case buffer => exact exec_touches_nothing (writeBuffer_beyond hn h) (exec_writeBuffer a n s)
  case update => exact exec_touches_nothing (updateFirmware_outside hn h) (exec_updateFirmware a n verify s)
  case init => exact exec_touches_nothing (linkInit_invalid h) rfl
  case reset => exact exec_touches_nothing (resetTarget_without_pin h) rfl
  case port => exact ⟨_, step_of_refused hs hb hc hop, ⟨rfl, rfl⟩, rfl, rfl, rfl, rfl, rfl, rfl⟩

end Sys2Proof.Machine

/-! # The reset family (`70_reset_and_hazards.md`): the check of `linkInit` is R340's list -/

namespace Sys2Proof.Machine

/-- Settles O49: part by part, the Boolean check says what R340 writes: `linkConfigValid_iff` for the pins,
`validPageSize_iff` for the page size, `validOffsets_iff` for the sample offsets; `validConfig_iff` puts the parts in the
rule's order. -/
theorem configCheckIsR340 : Obligations.ConfigCheckIsR340 :=
  validConfig_iff

end Sys2Proof.Machine
